-- ==== Sys2Proof/Word.lean ====
section
/-!
DEFINITION. The word of the block and its plainest constants (rule R9 of spec/00_scope.md, rule R10).

Every operand, result and working value is an unsigned integer of `W` = 64 bits. The wrapping operators `+w`, `-w`,
`*w`, `<< 1`, `>> 1`, `|` of rule R11 are the operations of `BitVec 64` with those meanings, and `<`, `<=` on words are
the unsigned comparisons.
-/
namespace Sys2Proof

/-- A 64-bit unsigned value (R9: `W` = 64). -/
abbrev Word := BitVec 64

/-- `MAX` = 2^64 - 1 (R9). -/
def maxWord : Word := 0xFFFFFFFFFFFFFFFF

/-- `TOP` = 2^63 (R9). -/
def topWord : Word := 0x8000000000000000

end Sys2Proof
end

