-- ==== Sys2Proof/Config.lean ====
section
/-!
DEFINITION. What is fixed for this block (the parameters of rule R9 of spec/00_scope.md) and the values the spec leaves
open. A parameter with a value has that value; a parameter the spec marks OPEN is a constant with no body, so that a
statement proved here holds for every value of it.
-/
namespace Sys2Proof.Config

/-- `WIN_LO` = 2^27, inclusive (R9). -/
def winLo : Word := 134217728

/-- `WIN_HI` = 2^32, exclusive (R9). -/
def winHi : Word := 4294967296

/-- `MR_BASES`, the fixed bases of `IsPrime`, in this order (R9, R192). -/
def mrBases : List Word := [2, 3, 5, 7, 11, 13, 17]

/-- `NB` = 7, the length of `MR_BASES` (R9). -/
def nb : Nat := 7

/-- The two parameters the spec leaves OPEN (R9, D27, D31): a definition that depends on them takes them as an
argument, and the machine applies it to `Config.params`. -/
structure Params where
  /-- `KG_REPEAT`: the repeat count `KeygenRSA` passes to `IsPrime`. -/
  kgRepeat : Word
  /-- `RETRY_LIMIT`: the bound on rejected draws in one `KEYGEN`; 0 is no bound. -/
  retryLimit : Word
  deriving DecidableEq, Repr

/-- `KG_REPEAT` of this block: OPEN (R9), so nothing constrains it (log entry 1). -/
opaque kgRepeat : Word

/-- `RETRY_LIMIT` of this block: OPEN (R9), so nothing constrains it (log entry 1). -/
opaque retryLimit : Word

/-- The parameters of this block. -/
def params : Params := ⟨kgRepeat, retryLimit⟩

/-- What `DivMod(a, 0)` would give for the quotient: R122 gives it no value, so nothing constrains it. No run
from reset reads it: where `KEYGEN` would divide by zero its behaviour is unspecified from there on (log entries 2 and 13). -/
opaque quotientByZero : Nat → Word

/-- What a residue modulo 0 would be: no value (R122), as `quotientByZero` (log entry 2). -/
opaque residueByZero : Nat → Word

/-- What a host reads at a register index after a `KEYGEN` has come to a division by zero, which only a source outside its
contract can bring about: "from that point the command has no specified behaviour at all" (R74), so nothing constrains it. The
first argument is a count that no two reads of a run share (log entry 13). -/
opaque unspecifiedRead : Nat → Fin 16 → Word

end Sys2Proof.Config
end

