-- ==== Sys2Proof/Syntax.lean ====
section
/-!
DEFINITION. The commands of the block, one constructor per row of spec/opcode_table.json (rule R91 of
spec/30_encoding.md), the fields of a command word (rule R90), and the pseudo-commands (rule R97).

No command has an operand field: rule R90 gives a command word no register and no immediate field, and rule R93 takes
every operand from an operand register. So each constructor is a plain name.
-/
namespace Sys2Proof

/-- The thirteen commands (R91). -/
inductive Instr where
  | mod
  | quot
  | modadd
  | modsub
  | modmul
  | modpow
  | egcd
  | gcd
  | modinv
  | isprime
  | keygen
  | rsaxf
  | clr
  deriving DecidableEq, Repr

/-- All thirteen, in the table's order. -/
def Instr.all : List Instr :=
  [.mod, .quot, .modadd, .modsub, .modmul, .modpow, .egcd, .gcd, .modinv, .isprime, .keygen, .rsaxf, .clr]

/-- The fields of a command word `CMDW` (R90): `OPC` in bits 7:0, `SUB` in bit 8, bits 63:9 reserved. -/
structure CmdFields where
  opc : BitVec 8
  sub : Bool
  reserved : BitVec 55
  deriving DecidableEq, Repr

/-- The pseudo-commands of R97: second spellings that stand for one or two commands. -/
inductive Pseudo where
  | encrypt
  | decrypt
  | divmod
  deriving DecidableEq, Repr

/-- What each pseudo-command stands for (R97, R232): `ENCRYPT` and `DECRYPT` are both `RSAXF`, `DIVMOD` is `QUOT` and
then `MOD` on the operands that persist between them. -/
def Pseudo.expand : Pseudo → List Instr
  | .encrypt => [.rsaxf]
  | .decrypt => [.rsaxf]
  | .divmod => [.quot, .mod]

end Sys2Proof
end

