-- ==== Sys2Proof/WellFormed.lean ====
section
/-!
DEFINITION. Which command words are legal (rule R95 of spec/30_encoding.md), said on the fields of a word, each way of
being illegal under a name of its own.
-/
namespace Sys2Proof

/-- Why a command word is illegal (R95). Every reason ends the command with `ERR_ILLEGAL_CMD` (R255): which of them
is named changes nothing the host can see. -/
inductive IllegalWord where
  /-- `CMDW[63:9]` is not zero. -/
  | reservedBits
  /-- `OPC = 0x00`. -/
  | opcodeZero
  /-- `OPC` is `0x0D` to `0xFF`. -/
  | opcodeUndefined
  /-- `SUB = 1` and `OPC` is not `0x03`. -/
  | subNotAllowed
  deriving DecidableEq, Repr

/-- The first reason, if any, for which the fields are illegal (R95). -/
def CmdFields.problem (f : CmdFields) : Option IllegalWord :=
  if f.reserved ≠ 0 then some .reservedBits
  else if f.opc = 0 then some .opcodeZero
  else if 0x0D ≤ f.opc then some .opcodeUndefined
  else if f.sub = true ∧ f.opc ≠ 3 then some .subNotAllowed
  else none

/-- The fields make a legal command word (R95). -/
def CmdFields.wellFormed (f : CmdFields) : Bool :=
  f.problem.isNone

end Sys2Proof
end

