-- ==== Sys2Proof/Decode.lean ====
section
/-!
DEFINITION. The decoder and the encoder (rules R90, R91 and R95 of spec/30_encoding.md). A command is one 64-bit word,
the word the host writes to `CMD`; there is no byte order (rule R62) and no second word.
-/
namespace Sys2Proof

/-- The fields of a command word (R90). -/
def fieldsOf (w : Word) : CmdFields :=
  { opc := w.extractLsb' 0 8, sub := w.getLsbD 8, reserved := w.extractLsb' 9 55 }

/-- The word that has these fields (R90). -/
def wordOf (f : CmdFields) : Word :=
  f.reserved ++ BitVec.ofBool f.sub ++ f.opc

/-- The opcode map (R91), read on `OPC` and `SUB`. -/
def opcodeMap (opc : Nat) (sub : Bool) : Option Instr :=
  match opc, sub with
  | 0x01, false => some .mod
  | 0x02, false => some .quot
  | 0x03, false => some .modadd
  | 0x03, true => some .modsub
  | 0x04, false => some .modmul
  | 0x05, false => some .modpow
  | 0x06, false => some .egcd
  | 0x07, false => some .gcd
  | 0x08, false => some .modinv
  | 0x09, false => some .isprime
  | 0x0A, false => some .keygen
  | 0x0B, false => some .rsaxf
  | 0x0C, false => some .clr
  | _, _ => none

/-- The decoder (R90: check the reserved bits, read `OPC`, check `SUB`), total on every word; an illegal word is
rejected by name (R95). -/
def decode (w : Word) : Except IllegalWord Instr :=
  match (fieldsOf w).problem with
  | some why => .error why
  | none =>
    match opcodeMap (fieldsOf w).opc.toNat (fieldsOf w).sub with
    | some i => .ok i
    | none => .error .opcodeUndefined

/-- `OPC` of each command (R91). -/
def opcOf : Instr → BitVec 8
  | .mod => 0x01
  | .quot => 0x02
  | .modadd => 0x03
  | .modsub => 0x03
  | .modmul => 0x04
  | .modpow => 0x05
  | .egcd => 0x06
  | .gcd => 0x07
  | .modinv => 0x08
  | .isprime => 0x09
  | .keygen => 0x0A
  | .rsaxf => 0x0B
  | .clr => 0x0C

/-- `SUB` of each command (R91, R92): 1 for `MODSUB` only. -/
def subOf : Instr → Bool
  | .modsub => true
  | .mod => false
  | .quot => false
  | .modadd => false
  | .modmul => false
  | .modpow => false
  | .egcd => false
  | .gcd => false
  | .modinv => false
  | .isprime => false
  | .keygen => false
  | .rsaxf => false
  | .clr => false

/-- The fields of each command's one encoding (R91). -/
def encodeFields (i : Instr) : CmdFields :=
  { opc := opcOf i, sub := subOf i, reserved := 0 }

/-- The encoder: the word the host writes to `CMD` to issue the command (R91). -/
def encode (i : Instr) : Word :=
  wordOf (encodeFields i)

/-- The decoder on the bits of an opcode-table row: the table numbers bit 0 as the least significant bit of the one
64-bit word, as R90 does, so the word is the number itself. A command is 64 bits long, so bits above that have no
place in it. -/
def decodeTableWord (nbits w : Nat) : Option Instr :=
  if w % 2 ^ nbits < 2 ^ 64 then (decode (BitVec.ofNat 64 (w % 2 ^ nbits))).toOption else none

end Sys2Proof
end

