-- ==== Sys2Proof/Machine/State.lean ====
section
/-!
DEFINITION. The state of the block, as plain data (spec/10_state.md rules R20 to R30), and its reset value (rule R32).

Beside the block's own state the model holds two lists of its own: `env`, what the agents outside the block (the host and
the random source, rule R14) will do next, and `trace`, what they have seen so far (rule R15). Neither is state of the
block (rule R16); both are plain data, and a statement about every state holds for every list (log entries 3 and 4).
-/
namespace Sys2Proof.Machine

/-- The error codes of `STATUS.ERR` (R251). Codes 6 to 15 are never produced, so they have no name here. -/
inductive ErrCode where
  | noError
  | zeroModulus
  | dataRange
  | operand
  | illegalCmd
  | retryExhausted
  deriving DecidableEq, Repr

/-- The three operand registers (R20). -/
structure OpRegs where
  o0 : Word
  o1 : Word
  o2 : Word
  deriving DecidableEq, Repr

/-- The five result registers (R21). -/
structure ResRegs where
  r0 : Word
  r1 : Word
  r2 : Word
  r3 : Word
  r4 : Word
  deriving DecidableEq, Repr

/-- Where the sequencer is inside a command (R22: "internal state with no architected encoding"). Between two steps of
the model a running command is either accepted and not yet started, or waiting on the random source in one of the
states that R198 and R220 name, or in the one loop of the spec that never ends, or past the point up to which the spec
specifies it. -/
inductive Stage where
  /-- The command word is stored and the command has not started (R241). -/
  | accepted
  /-- `ISPRIME`: `T_WAIT` (R198), the request `(2, N - 1)` is outstanding. -/
  | isPrimeWait
  /-- `KEYGEN`: `K_DRAWP` (R220). -/
  | drawP
  /-- `KEYGEN`: `K_TESTP`, the primality unit in `T_WAIT`. -/
  | testPWait
  /-- `KEYGEN`: `K_DRAWQ`. -/
  | drawQ
  /-- `KEYGEN`: `K_TESTQ`, the primality unit in `T_WAIT`. -/
  | testQWait
  /-- `KEYGEN`: `K_DRAWE`. -/
  | drawE
  /-- `T_DECOMP` with a candidate 1: R191 says the loop "would halve 0 for ever". Reached only in `KEYGEN` and only if
  the random source answers 1 to a window request, outside its contract (R74). -/
  | decomposing
  /-- `KEYGEN` has come to a `DivMod` with a zero divisor: "from that point the command has no specified behaviour at all"
  (R74), and only reset leads on (R280, R282). Reached only if the random source answers outside its contract. The other
  fields say nothing of the hardware in this stage, and a host read returns a free value (log entry 13). -/
  | unspecified
  deriving DecidableEq, Repr

/-- `MODE` (R22). -/
inductive Mode where
  | idle
  | busy (stage : Stage)
  | halt
  deriving DecidableEq, Repr

/-- Working registers of the reduction unit (R125). -/
structure DivRegs where
  sh : Word
  bit : Word
  q : Word
  r : Word
  deriving DecidableEq, Repr

/-- Working registers of the adder: `a'`, `b'`, `s` and the one-bit `wrap` (R144). -/
structure AddRegs where
  a : Word
  b : Word
  s : Word
  wrap : Bool
  deriving DecidableEq, Repr

/-- Working registers of the multiplier: `x`, `y`, `acc` and the bit index `i` (R153). -/
structure MulRegs where
  x : Word
  y : Word
  acc : Word
  i : Nat
  deriving DecidableEq, Repr

/-- Working registers of the exponentiator: the running value `r` and the bit index `i` (R162). -/
structure PowRegs where
  r : Word
  i : Nat
  deriving DecidableEq, Repr

/-- Working registers of the Euclid unit (R172): the remainder pair and the two coefficient pairs. -/
structure EucRegs where
  r0 : Word
  r1 : Word
  s0 : Word
  s1 : Word
  t0 : Word
  t1 : Word
  deriving DecidableEq, Repr

/-- Working registers of the primality unit (R198): the candidate `N`, `d`, `s`, `rounds`, the round index `k`, the base
`a`, the running value `x` and the squaring index `r`. -/
structure MrRegs where
  n : Word
  d : Word
  s : Word
  rounds : Word
  k : Nat
  a : Word
  x : Word
  r : Nat
  deriving DecidableEq, Repr

/-- Working registers of the key-generation orchestrator (R220), the totient register `phi` (R27) and the attempt
counter `ATTEMPTS` (R28) among them. -/
structure KgRegs where
  p : Word
  q : Word
  n : Word
  phi : Word
  e : Word
  d : Word
  attempts : Nat
  deriving DecidableEq, Repr

/-- The working registers of the five arithmetic units, which call one another and no unit above them (R2, R26). -/
structure Alu where
  div : DivRegs
  add : AddRegs
  mul : MulRegs
  pow : PowRegs
  euc : EucRegs
  deriving DecidableEq, Repr

/-- The working registers of every unit (R26). -/
structure Work where
  alu : Alu
  mr : MrRegs
  kg : KgRegs
  deriving DecidableEq, Repr

/-- A request `(from, to)` on the RNG port (R29, R69). -/
structure Request where
  lo : Word
  hi : Word
  deriving DecidableEq, Repr

/-- What the agents outside the block do to it (R14), one event at a time (R66: accesses are performed "one at a time in
the order they arrive"). -/
inductive EnvEvent where
  /-- `MemRead(index, 8)` by the host. An index above 15 cannot be expressed (R63). -/
  | read (i : Fin 16)
  /-- `MemWrite(index, 8, v)` by the host. -/
  | write (i : Fin 16) (v : Word)
  /-- The reset input is asserted (R280). -/
  | reset
  /-- The random source answers (R69). -/
  | answer (v : Word)
  /-- The random source answers, and reset is asserted before the sequencer has got any further than taking the answer
  (R282: "the draws the abandoned command consumed before the reset stay consumed"). A reset after it has got further, to
  its next request or to its end, is `answer` and then `reset`. -/
  | answerReset (v : Word)
  /-- No outside event: the time the sequencer needed has passed and an accepted command runs (R242, R293: how long
  `BUSY` lasts is unspecified, so where this event stands in the list is free). -/
  | run
  deriving DecidableEq, Repr

/-- What an outside agent can observe (R15). -/
inductive Obs where
  /-- A host read of the register returned the value (R15 (a)). -/
  | read (i : Fin 16) (v : Word)
  /-- The block presented the request `(from, to)` (R15 (b)). -/
  | request (lo hi : Word)
  /-- The block took the answer (R15 (b)). -/
  | answered (v : Word)
  deriving DecidableEq, Repr

/-- The block, with the two lists of the model's own (`env`, `trace`). -/
structure State where
  /-- `MODE` (R22), with the sequencer's position while `BUSY`. -/
  mode : Mode
  /-- `CMD` (R23). -/
  cmd : Word
  /-- `OP[0]` to `OP[2]` (R20). -/
  op : OpRegs
  /-- `RES[0]` to `RES[4]` (R21). -/
  res : ResRegs
  /-- `STATUS.DONE` (R24). -/
  done : Bool
  /-- `STATUS.FAIL` (R24). -/
  fail : Bool
  /-- `STATUS.ERR` (R24, R251). -/
  err : ErrCode
  /-- `STATUS.RVALID` (R21, R24): bit `i` is one when `RES[i]` was written by the last command. -/
  rvalid : BitVec 5
  /-- The working registers, `phi` and `ATTEMPTS` (R26 to R28). -/
  work : Work
  /-- The RNG port: at most one outstanding request (R29, R72). -/
  port : Option Request
  /-- The model's own: what the outside agents do next, first event first. -/
  env : List EnvEvent
  /-- The model's own: what they have observed, newest first. -/
  trace : List Obs
  deriving DecidableEq, Repr

/-- No rule of the spec stops the block with a machine fault: an error leaves it in `HALT` or back in `IDLE`, both of
them states (R259, R260), and a command that never ends leaves it `BUSY` (R74, R291). So there is no fault: nobody
raises one. -/
inductive Fault where
  deriving DecidableEq, Repr

/-- Why a step has no next state. Every step of the machine has one. -/
inductive Refusal where
  /-- Raised by `exec` for an instruction that has no meaning yet; no arm raises it now. Safe. -/
  | notModelled (mnemonic : String)
  deriving DecidableEq, Repr

/-- Every result register zero (R21). -/
def ResRegs.zero : ResRegs := ⟨0, 0, 0, 0, 0⟩

/-- Every operand register zero (R32, R240). -/
def OpRegs.zero : OpRegs := ⟨0, 0, 0⟩

/-- Every register of the arithmetic units zero (R26, R32). -/
def Alu.zero : Alu :=
  { div := ⟨0, 0, 0, 0⟩
    add := ⟨0, 0, 0, false⟩
    mul := ⟨0, 0, 0, 0⟩
    pow := ⟨0, 0⟩
    euc := ⟨0, 0, 0, 0, 0, 0⟩ }

/-- Every working register zero (R26, R32). -/
def Work.zero : Work :=
  { alu := Alu.zero
    mr := ⟨0, 0, 0, 0, 0, 0, 0, 0⟩
    kg := ⟨0, 0, 0, 0, 0, 0, 0⟩ }

/-- The block right after reset (R32, R280): `MODE = IDLE` and everything else zero. The model's two lists are empty:
nothing is asked of the block and nothing has been seen (log entries 3 and 4). -/
def State.reset : State :=
  { mode := .idle
    cmd := 0
    op := OpRegs.zero
    res := ResRegs.zero
    done := false
    fail := false
    err := .noError
    rvalid := 0
    work := Work.zero
    port := none
    env := []
    trace := [] }

end Sys2Proof.Machine
end

