-- ==== Sys2Proof/Machine/Flags.lean ====
section
/-!
DEFINITION. `STATUS` (rule R24 of spec/10_state.md): "all the flags the block has". Its fields live in `State` under
their own names; the word a host reads is put together here.
-/
namespace Sys2Proof.Machine

/-- The number of an error code (R251). -/
def ErrCode.code : ErrCode → BitVec 4
  | .noError => 0
  | .zeroModulus => 1
  | .dataRange => 2
  | .operand => 3
  | .illegalCmd => 4
  | .retryExhausted => 5

/-- `STATUS.BUSY`: 1 exactly when `MODE = BUSY` (R24). -/
def State.busyBit (s : State) : Bool :=
  match s.mode with
  | .busy _ => true
  | .idle => false
  | .halt => false

/-- `STATUS.HALT`: 1 exactly when `MODE = HALT` (R24). -/
def State.haltBit (s : State) : Bool :=
  match s.mode with
  | .busy _ => false
  | .idle => false
  | .halt => true

/-- The word a read of `STATUS` returns (R24): bit 0 `BUSY`, 1 `DONE`, 2 `HALT`, 3 `FAIL`, 7:4 `ERR`, 12:8 `RVALID`,
63:13 zero. -/
def State.status (s : State) : Word :=
  (0 : BitVec 51) ++ s.rvalid ++ s.err.code ++ BitVec.ofBool s.fail ++ BitVec.ofBool s.haltBit ++ BitVec.ofBool s.done
    ++ BitVec.ofBool s.busyBit

end Sys2Proof.Machine
end

