-- ==== Sys2Proof/Machine/Operands.lean ====
section
/-!
DEFINITION. The operands of the commands. Rule R93 of spec/30_encoding.md: every operand is a whole 64-bit value taken
from an operand register, nothing is extended, scaled or shifted, and a register the rule's table does not name for a
command is not read by it. R241 latches the operands at acceptance and lets a model read them from the `OP` registers at
any point of the command.
-/
namespace Sys2Proof.Machine

/-- The commands' first operand: `a`, `x`, `base`, `testNum` or `data`. -/
def State.operand0 (s : State) : Word := s.op.o0

/-- The commands' second operand: `n`, `b`, `y`, `exp`, `m`, `repeat` or `key`. -/
def State.operand1 (s : State) : Word := s.op.o1

/-- The commands' third operand: `n`. -/
def State.operand2 (s : State) : Word := s.op.o2

/-- The operand register that holds a command's modulus (R252), for the commands that have one. -/
def modulusOperand (i : Instr) (s : State) : Option Word :=
  match i with
  | .mod => some s.operand1
  | .quot => some s.operand1
  | .modadd => some s.operand2
  | .modsub => some s.operand2
  | .modmul => some s.operand2
  | .modpow => some s.operand2
  | .egcd => none
  | .gcd => none
  | .modinv => some s.operand1
  | .isprime => some s.operand0
  | .keygen => none
  | .rsaxf => some s.operand2
  | .clr => none

/-- The two's complement reading of a word (R10), used for the Bézout coefficients only. -/
def signed (v : Word) : Int := v.toInt

/-- `RES[0] <- v` (R12 (a)). -/
def ResRegs.set0 (r : ResRegs) (v : Word) : ResRegs := { r with r0 := v }

/-- `RES[0] <- v ; RES[1] <- u`. -/
def ResRegs.set01 (r : ResRegs) (v u : Word) : ResRegs := { r with r0 := v, r1 := u }

/-- `RES[0] <- v ; RES[1] <- u ; RES[2] <- t`. -/
def ResRegs.set012 (r : ResRegs) (v u t : Word) : ResRegs := { r with r0 := v, r1 := u, r2 := t }

end Sys2Proof.Machine
end

