-- ==== Sys2Proof/Machine/Ops.lean ====
section
/-!
DEFINITION. The operations every command shares: acceptance (R241), the three ends of a command and the taking of an
error (R242, R250, R259, R260), reset (R280), the host's reads and writes (R60 to R65), and the presenting of a request on
the RNG port (R69).
-/
namespace Sys2Proof.Machine

/-- What a step of this machine answers. -/
abbrev Result := Host.Outcome State Fault Refusal

/-- Go on from a next state; a stop stays a stop. -/
def goOn (r : Result) (k : State → Result) : Result :=
  match r with
  | .next s => k s
  | .fault f => .fault f
  | .refused x => .refused x

/-! ### How a command starts -/

/-- Acceptance (R241): the word is stored, the results, `RVALID`, `DONE`, `FAIL` and `ERR` are cleared, the block is
`BUSY`. The operands are not copied: R241 lets a model read them from the `OP` registers. -/
def accept (w : Word) (s : State) : State :=
  { s with
    mode := .busy .accepted
    cmd := w
    res := ResRegs.zero
    done := false
    fail := false
    err := .noError
    rvalid := 0 }

/-! ### How a command ends -/

/-- What the three end events have in common (R242): `DONE` is set, every working register, `phi` and `ATTEMPTS` are
zero, and no request is outstanding. -/
def settle (s : State) : State :=
  { s with done := true, work := Work.zero, port := none }

/-- The success end (R242): the results and `RVALID` are written, `FAIL` and `ERR` cleared, `MODE` is `IDLE`. -/
def endSuccess (res : ResRegs) (rvalid : BitVec 5) (s : State) : State :=
  { settle s with res := res, rvalid := rvalid, fail := false, err := .noError, mode := .idle }

/-- `raise Fatal(code)` (R242, R259): no result is written and the block halts. -/
def endFatal (c : ErrCode) (s : State) : State :=
  { settle s with fail := false, err := c, mode := .halt }

/-- `raise Recoverable(code)` (R242, R260): no result is written and the block is ready for the next command. -/
def endRecoverable (c : ErrCode) (s : State) : State :=
  { settle s with fail := true, err := c, mode := .idle }

/-- Taking an error, the one shared operation: its class decides the end (R250, R251). Control goes nowhere and nothing
else is saved (R257, R259). -/
def raiseError (c : ErrCode) (s : State) : State :=
  match c with
  | .retryExhausted => endRecoverable c s
  | .zeroModulus => endFatal c s
  | .dataRange => endFatal c s
  | .operand => endFatal c s
  | .illegalCmd => endFatal c s
  | .noError => endFatal c s

/-- The exit from `HALT`, and from everything else (R262, R280, R282): reset puts every piece of the block's state at its
reset value. The model's own lists are not the block's and stay. -/
def resetBlock (s : State) : State :=
  { State.reset with env := s.env, trace := s.trace }

/-! ### The host's accesses -/

/-- The register a host reads at an index (R60). -/
def regRead (i : Fin 16) (s : State) : Word :=
  match i.val with
  | 0 => s.cmd
  | 1 => s.status
  | 2 => s.op.o0
  | 3 => s.op.o1
  | 4 => s.op.o2
  | 8 => s.res.r0
  | 9 => s.res.r1
  | 10 => s.res.r2
  | 11 => s.res.r3
  | 12 => s.res.r4
  | _ => 0

/-- The value a host read returns: the register's (R60), but a free value once a command has no specified behaviour (R74,
log entry 13). The trace grows with each read, so its length is a fresh count. -/
def hostReadValue (i : Fin 16) (s : State) : Word :=
  if s.mode = .busy .unspecified then Config.unspecifiedRead s.trace.length i else regRead i s

/-- A host read (R64): allowed in every mode, no side effect on the block; the value goes to the host. -/
def hostRead (i : Fin 16) (s : State) : State :=
  { s with trace := .read i (hostReadValue i s) :: s.trace }

/-- A host write taken in `IDLE` (R65): `CMD` starts a command, `OP[i]` is stored, every other index is ignored. -/
def writeIdle (i : Fin 16) (v : Word) (s : State) : State :=
  match i.val with
  | 0 => accept v s
  | 2 => { s with op := { s.op with o0 := v } }
  | 3 => { s with op := { s.op with o1 := v } }
  | 4 => { s with op := { s.op with o2 := v } }
  | _ => s

/-- A host write (R65): taken in `IDLE`, ignored in `BUSY` and in `HALT`. -/
def hostWrite (i : Fin 16) (v : Word) (s : State) : State :=
  match s.mode with
  | .idle => writeIdle i v s
  | .busy _ => s
  | .halt => s

/-! ### The RNG port -/

/-- Present the request `(lo, hi)` and wait in `stage` (R69, R72). -/
def present (lo hi : Word) (stage : Stage) (s : State) : State :=
  { s with mode := .busy stage, port := some ⟨lo, hi⟩, trace := .request lo hi :: s.trace }

/-- The block takes the answer to its outstanding request, whatever it is (R69, R74). -/
def takeFromPort (v : Word) (s : State) : State :=
  { s with port := none, trace := .answered v :: s.trace }

/-- The sequencer works on: the working registers change, nothing a host can see does (R26). -/
def State.withWork (s : State) (w : Work) : State := { s with work := w }

end Sys2Proof.Machine
end

