-- ==== Sys2Proof/Machine/Functions.lean ====
section
/-!
DEFINITION. The functions the commands compute.

The spec gives most of them twice: as pseudocode, and as an equation over the natural numbers of which it says that a
model may define the function by it (R121, R141, R151, R161). The first half of this file is the equations, and they are
what the commands use. The second half is the pseudocode of R120, R140, R150 and R160; that it computes the same is stated in
Certificates/Slice0/Obligations.lean.

Loops of the pseudocode that the spec shows to end are written on a count of steps that is never used up. Outside the
precondition under which the spec shows it (`n != 0` for `DivMod`, `N >= 2` for the decomposition) the count is used up, and
what the definition then gives is the model's choice, no value of the spec (log entry 12).
-/
namespace Sys2Proof.Machine

/-! ### The values -/

/-- `v mod n` of a natural number, as a word. A residue modulo 0 has no value (R122). -/
def residue (v : Nat) (n : Word) : Word :=
  if n = 0 then Config.residueByZero v else BitVec.ofNat 64 (v % n.toNat)

/-- `mod(a, n)` (R121): the remainder of natural numbers. -/
def modOf (a n : Word) : Word := residue a.toNat n

/-- `quotient(a, n)` (R121): the floor quotient of natural numbers. -/
def quotOf (a n : Word) : Word :=
  if n = 0 then Config.quotientByZero a.toNat else BitVec.ofNat 64 (a.toNat / n.toNat)

/-- The operator of `ModAdd` (R140, R92). -/
inductive AddOp where
  | add
  | sub
  deriving DecidableEq, Repr

/-- `ModAdd(a, b, op, n)` (R141): `(a + b) mod n`, and `(a - b) mod n` "taken over the integers with the result in 0 to
`n - 1`". -/
def sumMod (op : AddOp) (a b n : Word) : Word :=
  match op with
  | .add => residue (a.toNat + b.toNat) n
  | .sub => residue (((a.toNat : Int) - (b.toNat : Int)) % (n.toNat : Int)).toNat n

/-- `ModMul(x, y, n)` (R151): `(x * y) mod n`, the product taken over the natural numbers. -/
def prodMod (x y n : Word) : Word := residue (x.toNat * y.toNat) n

/-- The recursion of `ModPow` (R160) on `exp >> 1`, over a multiplication `mul` modulo `n` and with `one` the value of its
base case `exp = 1`, `mod(base, n)`. The count is of calls left: the depth is the bit length of `exp`, at most 64. -/
def powRec (mul : Word → Word → Word) (base one : Word) : Nat → Word → Word
  | 0, _ => 1
  | fuel + 1, e =>
    if e = 0 then 1
    else if e = 1 then one
    else
      let half := powRec mul base one fuel (e >>> 1)
      let sq := mul half half
      if e.getLsbD 0 then mul sq base else sq

/-- `ModPow(base, exp, n)` (R160, R161), multiplying by R151's equation: 1 for `exp = 0` whatever `n` is, else
`(base ^ exp) mod n`. -/
def powMod (base e n : Word) : Word :=
  powRec (fun x y => prodMod x y n) base (modOf base n) 65 e

/-- A bound on the division steps of the Euclid unit that is never used up: the second argument at least halves in two
steps, so 64-bit arguments take at most 128 (R171 gives the sharper 92). -/
def euclidFuel : Nat := 130

/-- `ExtendedEuclid` (R170), the recursion; the count is of calls left. -/
def egcdRec : Nat → Word → Word → Word × Word × Word
  | 0, a, _ => (a, 1, 0)
  | fuel + 1, a, b =>
    if b = 0 then (a, 1, 0)
    else
      let t := egcdRec fuel b (modOf a b)
      (t.1, t.2.2, t.2.1 - quotOf a b * t.2.2)

/-- `ExtendedEuclid(a, b)` (R170): `(g, x, y)`, the coefficients modulo 2^64. -/
def extendedEuclid (a b : Word) : Word × Word × Word := egcdRec euclidFuel a b

/-- `GCD(a, b)` (R173): the first component. -/
def gcdOf (a b : Word) : Word := (extendedEuclid a b).1

/-- The correction of R174: a coefficient with the top bit set is negative, and `m` is added to it. -/
def invFix (x m : Word) : Word := if x.getLsbD 63 then x + m else x

/-- `ModInv(a, m)` (R174). -/
def modInv (a m : Word) : Word := invFix (extendedEuclid a m).2.1 m

/-- The decomposition of R191: halve `d` and count while it is even. `N - 1 >= 1` has a set bit, so 64 iterations are
enough; the count is of those left. For `N = 1`, where R191 says that the loop would halve 0 for ever, the count is used up
and the value `(0, 64)` is the model's (log entry 12); no command decomposes the candidate 1. -/
def decompose : Nat → Word → Word → Word × Word
  | 0, d, s => (d, s)
  | fuel + 1, d, s => if d.getLsbD 0 then (d, s) else decompose fuel (d >>> 1) (s + 1)

/-- The comparisons of one round (R193): with `left = s - r` values still to compare, is one of `x`, `x^2`, ... equal to
`N - 1`? -/
def roundCmp (n : Word) : (left : Nat) → (x : Word) → Bool
  | 0, _ => false
  | left + 1, x => if x = n - 1 then true else roundCmp n left (prodMod x x n)

/-- One round for base `a` (R193): does it accept? -/
def roundAccepts (n a : Word) : Bool :=
  let t := decompose 64 (n - 1) 0
  let x := powMod a t.1 n
  if x = 1 then true else roundCmp n t.2.toNat x

/-- `rounds = max(NB, repeat)` (R192). -/
def roundsOf (rep : Word) : Word := if rep.toNat ≤ Config.nb then BitVec.ofNat 64 Config.nb else rep

/-- Some fixed base of `MR_BASES` passes for `N`: then `IsPrime` is true and no draw is made (R194, R195). -/
def fixedBaseAccepts (n : Word) : Bool := Config.mrBases.any (roundAccepts n)

/-- `RsaTransform(data, key, n)` (R230): the error it raises, or its value. -/
def rsaTransform (data key n : Word) : Except ErrCode Word :=
  if n = 0 then .error .zeroModulus
  else if n ≤ data then .error .dataRange
  else .ok (powMod data key n)

/-! ### The pseudocode of `DivMod` (R120) -/

/-- Phase 1 of R120: shift the shifter and the bit up while `sh <= a >> 1` and `sh[63] = 0`. The count is of iterations
left; R121 shows at most 63 are made. -/
def divUp (a : Word) : Nat → Word → Word → Word × Word
  | 0, sh, bit => (sh, bit)
  | fuel + 1, sh, bit =>
    if sh ≤ a >>> 1 ∧ sh.getLsbD 63 = false then divUp a fuel (sh <<< 1) (bit <<< 1) else (sh, bit)

/-- One subtraction of phase 2 of R120. -/
def divSub (d : DivRegs) : DivRegs :=
  if d.sh ≤ d.r then { d with r := d.r - d.sh, q := d.q ||| d.bit } else d

/-- Phase 2 of R120: subtract, leave after the step with `bit = 1`, else halve. R121: at most 64 steps. -/
def divDown : Nat → DivRegs → DivRegs
  | 0, d => d
  | fuel + 1, d =>
    if (divSub d).bit = 1 then divSub d
    else divDown fuel { divSub d with sh := (divSub d).sh >>> 1, bit := (divSub d).bit >>> 1 }

/-- `D_LOAD` to `D_DONE` (R120, R125), for `n != 0`: the unit's registers when the binary long division is done. R122 gives
`DivMod(a, 0)` no value and says that phase 1 would not end. Here both counts are used up for `n = 0`, which leaves
`(sh, bit, q, r) = (0, 0, 0, a)`: the model's choice, no value of the spec (log entry 12). No step of the machine calls it. -/
def divLoop (a n : Word) : DivRegs :=
  divDown 64 { sh := (divUp a 64 n 1).1, bit := (divUp a 64 n 1).2, q := 0, r := a }

/-! ### The pseudocode of `ModAdd`, `ModMul` and `ModPow` (R140, R150, R160), over `DivMod` as R120 writes it

Their precondition is `n != 0`; for `n = 0` they give what `divLoop` gives there (log entry 12). -/

/-- `mod(a, n)` by long division (R120). -/
def modLoop (a n : Word) : Word := (divLoop a n).r

/-- `ModAdd(a, b, op, n)` (R140): reduce, negate for `SUB` (then `b'` is `n` itself when `b mod n = 0`), add, correct a
wrapped sum by `1 + mod(MAX, n)`, reduce again. -/
def modAdd (op : AddOp) (a b n : Word) : Word :=
  let a' := modLoop a n
  let b' := match op with
    | .add => modLoop b n
    | .sub => n - modLoop b n
  let s := a' + b'
  let s' := if s < a' ∨ s < b' then s + 1 + modLoop maxWord n else s
  modLoop s' n

/-- The loop of R150 from bit `i` on, with `left` iterations to go, least significant bit of `y` first; `x` is doubled
through `ModAdd` when its top bit is set, else by a shift and a reduction. -/
def modMulLoop (y n : Word) : (left : Nat) → (i : Nat) → (x acc : Word) → Word
  | 0, _, _, acc => acc
  | left + 1, i, x, acc =>
    modMulLoop y n left (i + 1) (if x.getLsbD 63 then modAdd .add x x n else modLoop (x <<< 1) n)
      (if y.getLsbD i then modAdd .add acc x n else acc)

/-- `ModMul(x, y, n)` (R150): 64 iterations. -/
def modMul (x y n : Word) : Word :=
  modMulLoop (modLoop y n) n 64 0 (modLoop x n) 0

/-- `ModPow(base, exp, n)` (R160), over the `ModMul` of R150. -/
def modPow (base e n : Word) : Word :=
  powRec (fun x y => modMul x y n) base (modLoop base n) 65 e

end Sys2Proof.Machine
end

