-- ==== Sys2Proof/Machine/Units.lean ====
section
/-!
DEFINITION. The units as hardware: each runs on its working registers and drives the units below it (rule R2), step by
step as the spec's step descriptions say: the reduction unit (R125), the adder (R144), the multiplier (R153), the
exponentiator in its iterative form (R162), the Euclid unit in its iterative form (R172) and the primality unit (R198).

"Where a step description and the command-level function could differ, the function is the rule" (R15, D40). So the
primality unit takes the VALUES it goes on with from the functions of Machine/Functions.lean, and what the arithmetic units
under it leave in their registers from the step descriptions here; that the two agree is stated in
Certificates/Slice0/Obligations.lean.
-/
namespace Sys2Proof.Machine

/-! ### Reduction unit -/

/-- The reduction unit's registers when `DivMod(a, n)` is done (R125): the result is `(q, r)`; the division ends with the
shifter back at `n` and the bit at 1 (R120: "sh is n itself"). For `n = 0` the unit would not end (R122): `sh = 0`, `bit = 1` are
then the model's choice, and `q`, `r` are without a value (log entries 2 and 12). -/
def divRegs (a n : Word) : DivRegs := ⟨n, 1, quotOf a n, modOf a n⟩

/-- `D_LOAD` to `D_DONE` (R125): the result is `(div.q, div.r)`. -/
def runDiv (a n : Word) (u : Alu) : Alu := { u with div := divRegs a n }

/-! ### Adder -/

/-- `A_FIX` (R144): only when the sum wrapped, reduce `MAX` and correct the sum. -/
def addFix (n : Word) (u : Alu) : Alu :=
  if u.add.wrap then
    let u1 := runDiv maxWord n u
    { u1 with add := { u1.add with s := u1.add.s + 1 + u1.div.r } }
  else u

/-- `A_REDA`, `A_REDB`, `A_NEG`, `A_SUM`, `A_FIX`, `A_REDS` (R144): the result is `div.r` of the last reduction. The
wrap is the carry out of the sum, the condition of R140. -/
def runAdd (op : AddOp) (a b n : Word) (u : Alu) : Alu :=
  let u1 := runDiv a n u
  let a' := u1.div.r
  let u2 := runDiv b n u1
  let b' := match op with
    | .add => u2.div.r
    | .sub => n - u2.div.r
  let s := a' + b'
  let u3 := addFix n { u2 with add := { a := a', b := b', s := s, wrap := decide (s < a' ∨ s < b') } }
  runDiv u3.add.s n u3

/-! ### Multiplier -/

/-- `M_BIT` (R153): accumulate when bit `i` of `y` is set. -/
def mulBit (n : Word) (u : Alu) : Alu :=
  if u.mul.y.getLsbD u.mul.i then
    let u1 := runAdd .add u.mul.acc u.mul.x n u
    { u1 with mul := { u1.mul with acc := u1.div.r } }
  else u

/-- `M_DBL` and `M_NEXT` (R153): double `x` modulo `n`, through the adder when its top bit is set; next bit. -/
def mulDbl (n : Word) (u : Alu) : Alu :=
  let u1 := if u.mul.x.getLsbD 63 then runAdd .add u.mul.x u.mul.x n u else runDiv (u.mul.x <<< 1) n u
  { u1 with mul := { u1.mul with x := u1.div.r, i := u1.mul.i + 1 } }

/-- The loop over the bits; the count is of iterations left. -/
def mulLoop (n : Word) : Nat → Alu → Alu
  | 0, u => u
  | left + 1, u => mulLoop n left (mulDbl n (mulBit n u))

/-- `M_REDX` to `M_DONE` (R153): the result is `mul.acc`. -/
def runMul (x y n : Word) (u : Alu) : Alu :=
  let u1 := runDiv x n u
  let x' := u1.div.r
  let u2 := runDiv y n u1
  mulLoop n 64 { u2 with mul := { x := x', y := u2.div.r, acc := 0, i := 0 } }

/-! ### Exponentiator -/

/-- Set the exponentiator's registers. -/
def setPow (r : Word) (i : Nat) (u : Alu) : Alu := { u with pow := ⟨r, i⟩ }

/-- `P_SQR` and `P_MUL` for bit `i` (R162): square, and multiply by `base` when the bit is set. -/
def powBit (base e n : Word) (i : Nat) (u : Alu) : Alu :=
  let u1 := runMul u.pow.r u.pow.r n u
  let u2 := setPow u1.mul.acc i u1
  if e.getLsbD i then
    let u3 := runMul u2.pow.r base n u2
    setPow u3.mul.acc i u3
  else u2

/-- The bits below `i`, most significant first (R162, R8). -/
def powLoop (base e n : Word) : Nat → Alu → Alu
  | 0, u => u
  | i + 1, u => powLoop base e n i (powBit base e n i u)

/-- `P_INIT` to `P_DONE` (R162): the result is `pow.r`. The index of the top set bit of `exp` is its `log2`. -/
def runPow (base e n : Word) (u : Alu) : Alu :=
  if e = 0 then setPow 1 0 u
  else
    let t := e.toNat.log2
    let u1 := runDiv base n u
    powLoop base e n t (setPow u1.div.r t u1)

/-! ### Euclid unit -/

/-- `E_DIV` and `E_UPD` (R172). -/
def eucStep (u : Alu) : Alu :=
  let u1 := runDiv u.euc.r0 u.euc.r1 u
  let c := u.euc
  let q := u1.div.q
  { u1 with euc := ⟨c.r1, u1.div.r, c.s1, c.s0 - q * c.s1, c.t1, c.t0 - q * c.t1⟩ }

/-- The loop of R172; the count is of steps left. -/
def eucLoop : Nat → Alu → Alu
  | 0, u => u
  | fuel + 1, u => if u.euc.r1 = 0 then u else eucLoop fuel (eucStep u)

/-- `E_INIT` to `E_DONE` (R172): the result is `(euc.r0, euc.s0, euc.t0)`. -/
def runEuclid (a b : Word) (u : Alu) : Alu :=
  eucLoop euclidFuel { u with euc := ⟨a, b, 1, 0, 0, 1⟩ }

/-! ### Primality unit -/

/-- What the primality unit has come to: `T_TRUE`, `T_FALSE`, or it needs a drawn base (R198). -/
inductive Verdict where
  | yes
  | no
  | draw
  deriving DecidableEq, Repr

/-- `T_SQR` (R198): the running value squared modulo `N`; the multiplier was run for it. -/
def mrSquare (w : Work) : Work :=
  { w with
    alu := runMul w.mr.x w.mr.x w.mr.n w.alu
    mr := { w.mr with x := prodMod w.mr.x w.mr.x w.mr.n } }

/-- `r <- r + 1` (R198). -/
def mrCount (w : Work) : Work := { w with mr := { w.mr with r := w.mr.r + 1 } }

/-- `T_CMP` and `T_SQR` (R193, R198) with `left = s - r` values still to compare: does the round accept? After the last
comparison no square is taken. -/
def mrCmp : Nat → Work → Bool × Work
  | 0, w => (false, w)
  | left + 1, w =>
    if w.mr.x = w.mr.n - 1 then (true, w)
    else mrCmp left (mrCount (if left = 0 then w else mrSquare w))

/-- `T_POW` (R198): the exponentiator is run on `(a, d, N)`. -/
def mrPow (a : Word) (w : Work) : Work :=
  { w with
    alu := runPow a w.mr.d w.mr.n w.alu
    mr := { w.mr with a := a, x := powMod a w.mr.d w.mr.n, r := 0 } }

/-- One round with base `a`: `T_POW`, `T_ONE`, then the comparisons (R193, R198). -/
def mrRound (a : Word) (w : Work) : Bool × Work :=
  if (mrPow a w).mr.x = 1 then (true, mrPow a w) else mrCmp w.mr.s.toNat (mrPow a w)

/-- `T_NEXT` (R198): the next round's number. -/
def mrNext (w : Work) : Work := { w with mr := { w.mr with k := w.mr.k + 1 } }

/-- After a failed round: another base is drawn while `k < rounds`, else the verdict is false (R194, R195). -/
def mrMore (w : Work) : Verdict := if w.mr.k < w.mr.rounds.toNat then .draw else .no

/-- The rounds of the fixed bases (R192, R195). -/
def mrFixed : List Word → Work → Verdict × Work
  | [], w => (mrMore w, w)
  | a :: bases, w =>
    if (mrRound a w).1 then (.yes, (mrRound a w).2) else mrFixed bases (mrNext (mrRound a w).2)

/-- The round of a drawn base (R192, R195). -/
def mrDrawn (v : Word) (w : Work) : Verdict × Work :=
  if (mrRound v w).1 then (.yes, (mrRound v w).2)
  else (mrMore (mrNext (mrRound v w).2), mrNext (mrRound v w).2)

/-- `T_DECOMP` (R191): the registers of a test of `N` with this repeat count, before its first round. -/
def mrLoad (n rep : Word) (w : Work) : Work :=
  let t := decompose 64 (n - 1) 0
  { w with mr := { n := n, d := t.1, s := t.2, rounds := roundsOf rep, k := 0, a := 0, x := 0, r := 0 } }

/-- `IsPrime(N, repeat)` for `N >= 2` up to its first draw or its end (R195). -/
def mrBegin (n rep : Word) (w : Work) : Verdict × Work :=
  mrFixed Config.mrBases (mrLoad n rep w)

end Sys2Proof.Machine
end

