-- ==== Sys2Proof/Machine/Arithmetic.lean ====
section
/-!
DEFINITION. `MODADD` and `MODSUB` (rules R142, R143 of spec/41_modadd.md), `MODMUL` (R152 of spec/42_modmul.md), `MODPOW`
(R163 of spec/43_modpow.md) and `RSAXF` (R231 of spec/47_transform.md).
-/
namespace Sys2Proof.Machine

/-- `MODADD` and `MODSUB` share everything but the operator (R142, R143). -/
def addCommand (op : AddOp) (s : State) : Result :=
  if s.operand2 = 0 then .next (raiseError .zeroModulus s)
  else .next (endSuccess (s.res.set0 (sumMod op s.operand0 s.operand1 s.operand2)) 0b00001 s)

/-- `MODADD a, b, n` (R142). -/
def execModadd (s : State) : Result := addCommand .add s

/-- `MODSUB a, b, n` (R143). -/
def execModsub (s : State) : Result := addCommand .sub s

/-- `MODMUL x, y, n` (R152). -/
def execModmul (s : State) : Result :=
  if s.operand2 = 0 then .next (raiseError .zeroModulus s)
  else .next (endSuccess (s.res.set0 (prodMod s.operand0 s.operand1 s.operand2)) 0b00001 s)

/-- `MODPOW base, exp, n` (R163): the modulus is checked before the base cases. -/
def execModpow (s : State) : Result :=
  if s.operand2 = 0 then .next (raiseError .zeroModulus s)
  else .next (endSuccess (s.res.set0 (powMod s.operand0 s.operand1 s.operand2)) 0b00001 s)

/-- `RSAXF data, key, n` (R230, R231): the modulus is checked first, then `data < n` (R258). -/
def execRsaxf (s : State) : Result :=
  match rsaTransform s.operand0 s.operand1 s.operand2 with
  | .error c => .next (raiseError c s)
  | .ok v => .next (endSuccess (s.res.set0 v) 0b00001 s)

end Sys2Proof.Machine
end

