-- ==== Sys2Proof/Machine/Primality.lean ====
section
/-!
DEFINITION. `ISPRIME`'s part of the sequencer (rules R195, R197, R198 of spec/45_primality.md): what follows when the
primality unit has come to a verdict or needs a drawn base.
-/
namespace Sys2Proof.Machine

/-- The request for a drawn base, `(2, N - 1)` (R192, R195), made in the given waiting stage. -/
def presentBase (stage : Stage) (s : State) : State :=
  present 2 (s.work.mr.n - 1) stage s

/-- `ISPRIME` goes on from the unit's verdict (R197): the verdict is a result value; a base still to be drawn is asked
for. -/
def isprimeFrom (v : Verdict) (s : State) : State :=
  match v with
  | .yes => endSuccess (s.res.set0 1) 0b00001 s
  | .no => endSuccess (s.res.set0 0) 0b00001 s
  | .draw => presentBase .isPrimeWait s

/-- `ISPRIME` on a candidate that is not refused, up to its first request or its end (R195). -/
def isprimeBegin (s : State) : State :=
  let t := mrBegin s.operand0 s.operand1 s.work
  isprimeFrom t.1 (s.withWork t.2)

/-- `ISPRIME` takes the answer to its request as the next base (R195, R198 `T_WAIT`). -/
def isprimeAnswer (v : Word) (s : State) : State :=
  let t := mrDrawn v s.work
  isprimeFrom t.1 (s.withWork t.2)

end Sys2Proof.Machine
end

