-- ==== Sys2Proof/Machine/Keygen.lean ====
section
/-!
DEFINITION. The key-generation orchestrator (rules R210 to R221 of spec/46_keygen.md) as the state machine of R220: between
two draws it computes without waiting, and in `K_DRAWP`, `K_DRAWQ`, `K_DRAWE` and inside `K_TESTP`, `K_TESTQ` it waits for
the random source. The two OPEN parameters are an argument (R9).
-/
namespace Sys2Proof.Machine

/-- Write the orchestrator's registers. -/
def State.withKg (s : State) (k : KgRegs) : State := { s with work := { s.work with kg := k } }

/-- Write the arithmetic units' registers. -/
def State.withAlu (s : State) (u : Alu) : State := { s with work := { s.work with alu := u } }

/-- `K_DRAWP` (R211): the window request for `p`. -/
def drawP (s : State) : State := present Config.winLo Config.winHi .drawP s

/-- `K_DRAWQ` (R212): the window request for `q`. -/
def drawQ (s : State) : State := present Config.winLo Config.winHi .drawQ s

/-- `K_DRAWE` (R214): the request `(2, phi)`. -/
def drawE (s : State) : State := present 2 s.work.kg.phi .drawE s

/-- `Reject()` (R217): count the rejection; at the bound end in the recoverable class, else retry. -/
def reject (par : Config.Params) (retry : State → State) (s : State) : State :=
  let n := s.work.kg.attempts + 1
  let s1 := s.withKg { s.work.kg with attempts := n }
  if par.retryLimit ≠ 0 ∧ par.retryLimit.toNat ≤ n then raiseError .retryExhausted s1 else retry s1

/-- `K_PROD` (R213): `n` and `phi` as plain 64-bit products, then the first draw of `e`. -/
def productStep (s : State) : State :=
  let k := s.work.kg
  drawE (s.withKg { k with n := k.p * k.q, phi := (k.p - 1) * (k.q - 1) })

/-- After the test of `p` (R211, `K_TESTP`). -/
def afterTestP (par : Config.Params) (v : Verdict) (s : State) : State :=
  match v with
  | .yes => drawQ s
  | .no => reject par drawP s
  | .draw => presentBase .testPWait s

/-- After the test of `q`, and `K_CMPQ` (R212): the test comes first, then the comparison with `p`. -/
def afterTestQ (par : Config.Params) (v : Verdict) (s : State) : State :=
  match v with
  | .yes => if s.work.kg.q = s.work.kg.p then reject par drawQ s else productStep s
  | .no => reject par drawQ s
  | .draw => presentBase .testQWait s

/-- The primality unit never leaves `T_DECOMP` for the candidate 1: its `d` is 0 and stays 0 (R191). What its other
registers `s`, `rounds`, `k`, `a`, `x`, `r` hold meanwhile is the model's choice (log entry 8, DESIGN CHOICE): they keep what
they held, although the loop of R191 starts `s` at 0 and counts it up with each of its halvings, whose number at any moment is
timing (R293). No host access reaches them (R26). -/
def decomposeForever (s : State) : State :=
  { s with mode := .busy .decomposing, work := { s.work with mr := { s.work.mr with n := 1, d := 0 } } }

/-- `KEYGEN` comes to a division by zero: the spec specifies nothing further of the command (R74, R122), and the block stays in
this stage until reset (R280, R282; log entry 13). -/
def divideByZero (s : State) : State :=
  { s with mode := .busy .unspecified }

/-- `IsPrime(c, KG_REPEAT)` inside key generation. An answer inside the window is at least 2^27. An answer outside the
source's contract is used as given (R74): 0 would make every `ModPow` divide by zero, for which the spec has no behaviour
(R122), and 1 would be halved for ever (R191). -/
def testCandidate (par : Config.Params) (c : Word) (after : Verdict → State → State) (s : State) : Result :=
  if c = 0 then .next (divideByZero s)
  else if c = 1 then .next (decomposeForever s)
  else
    let t := mrBegin c par.kgRepeat s.work
    .next (after t.1 (s.withWork t.2))

/-- The drawn base of a test inside key generation (R195). -/
def baseAnswer (v : Word) (after : Verdict → State → State) (s : State) : State :=
  let t := mrDrawn v s.work
  after t.1 (s.withWork t.2)

/-- `K_VERIFY` (R216): `ModMul(e, d, phi) = 1`, through the multiplier. Success writes the five results (R218, R219), a
failure restarts from step 1 with `ATTEMPTS` kept. With `phi = 0`, which only a source outside its contract can bring
about (R74), the multiplier would divide by zero. -/
def verifyStep (par : Config.Params) (s : State) : Result :=
  let k := s.work.kg
  if k.phi = 0 then .next (divideByZero s)
  else if prodMod k.e k.d k.phi = 1 then .next (endSuccess ⟨k.p, k.q, k.e, k.d, k.n⟩ 0b11111 s)
  else .next (reject par drawP (s.withAlu (runMul k.e k.d k.phi s.work.alu)))

/-- `K_INV` (R215): `d = ModInv(e, phi)`. -/
def invertStep (s : State) : State :=
  let k := s.work.kg
  (s.withAlu (runEuclid k.e k.phi s.work.alu)).withKg { k with d := modInv k.e k.phi }

/-- `K_DRAWE` has its answer, and `K_GCD` (R214): `GCD(phi, e)`; a failure draws `e` again. -/
def eAnswer (par : Config.Params) (v : Word) (s : State) : Result :=
  let k := { s.work.kg with e := v }
  let s1 := (s.withAlu (runEuclid k.phi k.e s.work.alu)).withKg k
  if gcdOf k.phi k.e = 1 then verifyStep par (invertStep s1) else .next (reject par drawE s1)

/-- `KEYGEN` from its acceptance to its first request (R210): `ATTEMPTS` is 0 and `p` is asked for. -/
def keygenBegin (s : State) : State :=
  drawP (s.withKg { s.work.kg with attempts := 0 })

end Sys2Proof.Machine
end

