-- ==== Sys2Proof/Machine/Draw.lean ====
section
/-!
DEFINITION. The random source's answers (rules R69 to R74 of spec/20_memory.md): what the sequencer does with one, and the
running of a command over the answers that stand at the head of `env`. The two commands that draw, `ISPRIME` (R197) and
`KEYGEN` (R219), are here: each runs as one transition over its operands and the answers to its draws (R15), and where no
answer stands next it is left `BUSY` with its request outstanding (R72).
-/
namespace Sys2Proof.Machine

/-- The sequencer takes the answer to its outstanding request and works on to its next request or its end (R71, R72).
The answer is used as given, inside the request's range or not (R74). -/
def takeAnswer (par : Config.Params) (v : Word) (s : State) : Result :=
  let s1 := takeFromPort v s
  match s.mode with
  | .busy .isPrimeWait => .next (isprimeAnswer v s1)
  | .busy .drawP => testCandidate par v (afterTestP par) (s1.withKg { s1.work.kg with p := v })
  | .busy .testPWait => .next (baseAnswer v (afterTestP par) s1)
  | .busy .drawQ => testCandidate par v (afterTestQ par) (s1.withKg { s1.work.kg with q := v })
  | .busy .testQWait => .next (baseAnswer v (afterTestQ par) s1)
  | .busy .drawE => eAnswer par v s1
  | .busy .accepted => .next s1
  | .busy .decomposing => .next s1
  | .busy .unspecified => .next s1
  | .idle => .next s1
  | .halt => .next s1

/-- Answer the outstanding request from the head of the list, and go on as long as the block waits and an answer stands
next; the rest of the list is what the outside agents do after that. A command that ended takes no further answer
(R72). -/
def drain (par : Config.Params) : List EnvEvent → State → Result
  | [], s => .next { s with env := [] }
  | ev :: rest, s =>
    match ev, s.port with
    | .answer v, some _ => goOn (takeAnswer par v s) (drain par rest)
    | _, _ => .next { s with env := ev :: rest }

/-- `ISPRIME testNum, repeat` (R197) with the parameters as an argument: the two refusals at acceptance, then the test. -/
def isprimeWith (par : Config.Params) (s : State) : Result :=
  if s.operand0 = 0 then .next (raiseError .zeroModulus s)
  else if s.operand0 = 1 then .next (raiseError .operand s)
  else drain par s.env (isprimeBegin s)

/-- `KEYGEN` (R219) with the parameters as an argument. -/
def keygenWith (par : Config.Params) (s : State) : Result :=
  drain par s.env (keygenBegin s)

/-- `ISPRIME testNum, repeat` (R197). It uses none of the OPEN parameters. -/
def execIsprime (s : State) : Result := isprimeWith Config.params s

/-- `KEYGEN` (R219) of this block. -/
def execKeygen (s : State) : Result := keygenWith Config.params s

/-- The answer is taken, if a request waits for it, and nothing more is done yet (R69). -/
def answerTaken (v : Word) (s : State) : State :=
  match s.port with
  | some _ => takeFromPort v s
  | none => s

/-- The random source answers while the block is in this state (R69): an outstanding request takes the answer, and any
that follow; with no request outstanding the answer is not taken by anything (R282). `s.env` begins with the answer. -/
def answerEvent (s : State) (rest : List EnvEvent) : Result :=
  match s.port with
  | some _ => drain Config.params s.env s
  | none => .next { s with env := rest }

end Sys2Proof.Machine
end

