-- ==== Sys2Proof/Machine/Euclid.lean ====
section
/-!
DEFINITION. `EGCD`, `GCD` and `MODINV` (rules R176, R177 and R178 of spec/44_euclid.md).
-/
namespace Sys2Proof.Machine

/-- `EGCD a, b` (R176): no exception. -/
def execEgcd (s : State) : Result :=
  let t := extendedEuclid s.operand0 s.operand1
  .next (endSuccess (s.res.set012 t.1 t.2.1 t.2.2) 0b00111 s)

/-- `GCD a, b` (R177): no exception. -/
def execGcd (s : State) : Result :=
  .next (endSuccess (s.res.set0 (gcdOf s.operand0 s.operand1)) 0b00001 s)

/-- `MODINV a, m` (R178): the inverse in `RES[0]`, the gcd in `RES[1]`; operands that are not coprime are no error
(R266). -/
def execModinv (s : State) : Result :=
  if s.operand1 = 0 then .next (raiseError .zeroModulus s)
  else
    .next (endSuccess (s.res.set01 (modInv s.operand0 s.operand1) (gcdOf s.operand0 s.operand1)) 0b00011 s)

end Sys2Proof.Machine
end

