-- ==== Sys2Proof/Machine/Reduction.lean ====
section
/-!
DEFINITION. `MOD` and `QUOT` (rules R123 and R124 of spec/40_reduction.md). A command that makes no draw runs as one
transition (R15): the working registers its units used are zero again at its end (R242), so only its value is named.
-/
namespace Sys2Proof.Machine

/-- `MOD a, n` (R123). -/
def execMod (s : State) : Result :=
  if s.operand1 = 0 then .next (raiseError .zeroModulus s)
  else .next (endSuccess (s.res.set0 (modOf s.operand0 s.operand1)) 0b00001 s)

/-- `QUOT a, n` (R124). -/
def execQuot (s : State) : Result :=
  if s.operand1 = 0 then .next (raiseError .zeroModulus s)
  else .next (endSuccess (s.res.set0 (quotOf s.operand0 s.operand1)) 0b00001 s)

end Sys2Proof.Machine
end

