-- ==== Sys2Proof/Machine/System.lean ====
section
/-!
DEFINITION. `CLR` (rule R240 of spec/48_system.md), the one housekeeping command.
-/
namespace Sys2Proof.Machine

/-- `CLR` (R240): every operand and result register zero, `RVALID` zero, a success end. -/
def execClr (s : State) : Result :=
  .next (endSuccess ResRegs.zero 0b00000 { s with op := OpRegs.zero })

end Sys2Proof.Machine
end

