-- ==== Sys2Proof/Machine/Dispatch.lean ====
section
/-!
DEFINITION. One arm per command (the last part of rule R241 of spec/48_system.md: the precondition checks, then the
command's function).
-/
namespace Sys2Proof.Machine

def exec (i : Instr) (s : State) : Host.Outcome State Fault Refusal :=
  match i with
  | .mod => Sys2Proof.Machine.execMod s
  | .quot => Sys2Proof.Machine.execQuot s
  | .modadd => Sys2Proof.Machine.execModadd s
  | .modsub => Sys2Proof.Machine.execModsub s
  | .modmul => Sys2Proof.Machine.execModmul s
  | .modpow => Sys2Proof.Machine.execModpow s
  | .egcd => Sys2Proof.Machine.execEgcd s
  | .gcd => Sys2Proof.Machine.execGcd s
  | .modinv => Sys2Proof.Machine.execModinv s
  | .isprime => Sys2Proof.Machine.execIsprime s
  | .keygen => Sys2Proof.Machine.execKeygen s
  | .rsaxf => Sys2Proof.Machine.execRsaxf s
  | .clr => Sys2Proof.Machine.execClr s

end Sys2Proof.Machine
end

