-- ==== Sys2Proof/Machine/Step.lean ====
section
/-!
DEFINITION. One step of the machine: the next event of the outside agents, or, where none is left, the sequencer's own
work (rules R14, R66, R241, R242). This file only calls what the other files define.
-/
namespace Sys2Proof.Machine

/-- The sequencer runs the accepted command (R241): it decodes the word in `CMD`; an illegal word ends the command with
`ERR_ILLEGAL_CMD` (R95, R255), before any operand is looked at (R258). -/
def runCommand (s : State) : Host.Outcome State Fault Refusal :=
  match decode s.cmd with
  | .ok i => exec i s
  | .error _ => .next (raiseError .illegalCmd s)

/-- The time the sequencer needed has passed: an accepted command runs. In every other mode there is nothing to run: in
`IDLE` the block waits for a write to `CMD`, in `HALT` for reset, a command that waits on the random source waits on
(R32, R74, R259), and one without a specified behaviour waits for reset. -/
def sequencer (s : State) : Host.Outcome State Fault Refusal :=
  match s.mode with
  | .busy .accepted => runCommand s
  | .busy .isPrimeWait => .next s
  | .busy .drawP => .next s
  | .busy .testPWait => .next s
  | .busy .drawQ => .next s
  | .busy .testQWait => .next s
  | .busy .drawE => .next s
  | .busy .decomposing => .next s
  | .busy .unspecified => .next s
  | .idle => .next s
  | .halt => .next s

/-- One step. -/
def step (s : State) : Host.Outcome State Fault Refusal :=
  match s.env with
  | [] => sequencer s
  | .read i :: rest => .next (hostRead i { s with env := rest })
  | .write i v :: rest => .next (hostWrite i v { s with env := rest })
  | .reset :: rest => .next (resetBlock { s with env := rest })
  | .run :: rest => sequencer { s with env := rest }
  | .answer _ :: rest => answerEvent s rest
  | .answerReset v :: rest => .next (resetBlock (answerTaken v { s with env := rest }))

/-- `s` with the command word `w` stored in `CMD` and accepted, and the event that lets the sequencer run standing next,
so that the very next step decodes and runs it. It stands for the host's write to `CMD` (log entry 5). -/
def State.withFetchWord (s : State) (nbits w : Nat) : State :=
  { accept (BitVec.ofNat 64 (w % 2 ^ nbits)) s with env := .run :: s.env }

end Sys2Proof.Machine
end

