-- ==== Sys2Proof/Machine/HostScript.lean ====
section
/-!
DEFINITION. How a host issues a command (rules R96, R97 of spec/30_encoding.md), as events of the model's list `env`.
-/
namespace Sys2Proof.Machine

/-- The host sequence that a command line such as `MODPOW 4, 2, 10` stands for (R96), up to the run of the command: write
the operand registers, write the command word, let the sequencer run. Reading `STATUS` and the results is up to the host:
it may read any number of times, before and after the run. -/
def commandLine (i : Instr) (a b c : Word) : List EnvEvent :=
  [.write 2 a, .write 3 b, .write 4 c, .write 0 (encode i), .run]

/-- The events that issue each command of a list on the operands that persist between them (R20, R97). -/
def issueAll (is : List Instr) : List EnvEvent :=
  is.flatMap fun i => [.write 0 (encode i), .run]

/-- The host sequence of a pseudo-command (R97): the operands once, then each command it stands for. -/
def pseudoLine (x : Pseudo) (a b c : Word) : List EnvEvent :=
  [.write 2 a, .write 3 b, .write 4 c] ++ issueAll x.expand

end Sys2Proof.Machine
end

