-- ==== Sys2Proof/Safety.lean ====
section
/-!
DEFINITION. What the claims about the machine are stated in: the invariants of the spec (R21, R24 to R26, R29, R31, R73), the
contract of the random source (R70, R74), and ways to name what a step answered.
-/
namespace Sys2Proof.Machine

/-! ### What a step answered -/

/-- The next state, if the step has one. -/
def nextState? (r : Result) : Option State :=
  match r with
  | .next s => some s
  | .fault _ => none
  | .refused _ => none

/-- A command that issues requests on the RNG port (R71). -/
def drawing (i : Instr) : Bool :=
  match i with
  | .isprime => true
  | .keygen => true
  | .mod => false
  | .quot => false
  | .modadd => false
  | .modsub => false
  | .modmul => false
  | .modpow => false
  | .egcd => false
  | .gcd => false
  | .modinv => false
  | .rsaxf => false
  | .clr => false

/-- From `s`, the result is a success end (R242) with these results and `RVALID`: the block is in `IDLE` with `DONE` set and no
error, and everything else is as it was, the working registers zero. Nothing was drawn. -/
def EndsWith (res : ResRegs) (rvalid : BitVec 5) (s : State) (r : Result) : Prop :=
  ∃ t, r = .next t ∧ t.mode = .idle ∧ t.done = true ∧ t.fail = false ∧ t.err = .noError ∧ t.res = res ∧
    t.rvalid = rvalid ∧ t.cmd = s.cmd ∧ t.op = s.op ∧ t.work = Work.zero ∧ t.port = none ∧ t.env = s.env ∧
    t.trace = s.trace

/-- From `s`, the result is a fatal end (R242, R259) with this code: the block halts, no result is written, and everything
else is as it was, the working registers zero. Nothing was drawn. -/
def HaltsWith (c : ErrCode) (s : State) (r : Result) : Prop :=
  ∃ t, r = .next t ∧ t.mode = .halt ∧ t.done = true ∧ t.fail = false ∧ t.err = c ∧ t.res = s.res ∧
    t.rvalid = s.rvalid ∧ t.cmd = s.cmd ∧ t.op = s.op ∧ t.work = Work.zero ∧ t.port = none ∧ t.env = s.env ∧
    t.trace = s.trace

/-- From `s`, the result is a block that waits on the random source in this state with this request outstanding (R29, R69):
the request is the one new thing on the port, and no register a host can read has changed but `BUSY`. -/
def WaitsWith (stage : Stage) (req : Request) (s : State) (r : Result) : Prop :=
  ∃ t, r = .next t ∧ t.mode = .busy stage ∧ t.port = some req ∧ t.trace = .request req.lo req.hi :: s.trace ∧
    t.res = s.res ∧ t.rvalid = s.rvalid ∧ t.done = s.done ∧ t.fail = s.fail ∧ t.err = s.err ∧ t.cmd = s.cmd ∧
    t.op = s.op ∧ t.env = s.env

/-- The events of a source that answers with these values, one after the other. -/
def answers (vs : List Word) : List EnvEvent := vs.map .answer

/-- The trace after the same request was made and answered once for each of the values, the first value first (newest
observation first). -/
def tracedDraws (req : Request) : List Word → List Obs → List Obs
  | [], tr => tr
  | v :: vs, tr => tracedDraws req vs (.answered v :: .request req.lo req.hi :: tr)

/-! ### A command that draws, from one request to the next -/

/-- `IsPrime(c, rep)` (R195) with these answers to its draws is still without a verdict: no fixed base accepts, none of the
drawn ones does, and a round is left. -/
def TestUndecided (rep c : Word) (bs : List Word) : Prop :=
  2 ≤ c.toNat ∧ fixedBaseAccepts c = false ∧ (∀ b ∈ bs, roundAccepts c b = false) ∧ 7 + bs.length < rep.toNat

/-- `IsPrime(c, rep)` (R195) is true, having drawn exactly these bases: none, a fixed base accepting, or the last one drawn
is the first that accepts. -/
def TestPasses (rep c : Word) (bs : List Word) : Prop :=
  (2 ≤ c.toNat ∧ fixedBaseAccepts c = true ∧ bs = []) ∨
    ∃ fails a, bs = fails ++ [a] ∧ TestUndecided rep c fails ∧ roundAccepts c a = true

/-- `IsPrime(c, rep)` (R195) is false, having drawn exactly these bases: `repeat - 7` of them, none for `repeat <= 7`, and
no base accepts. -/
def TestFails (rep c : Word) (bs : List Word) : Prop :=
  2 ≤ c.toNat ∧ fixedBaseAccepts c = false ∧ (∀ b ∈ bs, roundAccepts c b = false) ∧ bs.length = rep.toNat - 7

/-- From `s`, `t` is a block that waits in this state of `KEYGEN` with this request newly presented on the port, whose
trace was `tr`, and with this count in `ATTEMPTS`; no register a host can read has changed (R29, R69, R220). -/
def KeygenWaits (stage : Stage) (req : Request) (attempts : Nat) (tr : List Obs) (s t : State) : Prop :=
  t.mode = .busy stage ∧ t.port = some req ∧ t.work.kg.attempts = attempts ∧ t.trace = .request req.lo req.hi :: tr ∧
    t.res = s.res ∧ t.rvalid = s.rvalid ∧ t.done = s.done ∧ t.fail = s.fail ∧ t.err = s.err ∧ t.cmd = s.cmd ∧
    t.op = s.op

/-- From `s`, `t` is a block after one rejection (R217), of whichever loop: `ATTEMPTS` counts one more, and the block makes
the retry's request or, at the bound, has ended in the recoverable class (R260) with the port's trace `tr` as it was. -/
def Rejected (par : Config.Params) (stage : Stage) (req : Request) (tr : List Obs) (s t : State) : Prop :=
  if par.retryLimit ≠ 0 ∧ par.retryLimit.toNat ≤ s.work.kg.attempts + 1 then
    t.mode = .idle ∧ t.done = true ∧ t.fail = true ∧ t.err = .retryExhausted ∧ t.res = s.res ∧ t.rvalid = s.rvalid ∧
      t.cmd = s.cmd ∧ t.op = s.op ∧ t.work = Work.zero ∧ t.port = none ∧ t.trace = tr
  else KeygenWaits stage req (s.work.kg.attempts + 1) tr s t

/-- The window request, of `p` and of `q` (R211, R212). -/
def windowRequest : Request := ⟨Config.winLo, Config.winHi⟩

/-! ### The contract of the random source -/

/-- The newest request in a trace (newest first). -/
def lastRequest : List Obs → Option Request
  | [] => none
  | .request lo hi :: _ => some ⟨lo, hi⟩
  | .read _ _ :: rest => lastRequest rest
  | .answered _ :: rest => lastRequest rest

/-- The answer keeps the contract of R70 for the request: "for a request with `from < to` the answer satisfies
`from <= v < to`". -/
def Request.allows (r : Request) (v : Word) : Bool :=
  decide (r.lo < r.hi → r.lo ≤ v ∧ v < r.hi)

/-- Every answer the block has taken kept the contract of the request it answered (R70). R74 asks a model to state this
as a premise on the environment. -/
def keepsContract : List Obs → Bool
  | [] => true
  | .request _ _ :: rest => keepsContract rest
  | .read _ _ :: rest => keepsContract rest
  | .answered v :: rest =>
    (match lastRequest rest with
      | some r => r.allows v
      | none => true) && keepsContract rest

/-! ### The invariants of the block -/

/-- The request that is outstanding in each state (R192, R211, R212, R214), and none where the block does not wait (R29). -/
def expectedRequest (s : State) : Option Request :=
  match s.mode with
  | .busy .isPrimeWait => some ⟨2, s.work.mr.n - 1⟩
  | .busy .testPWait => some ⟨2, s.work.mr.n - 1⟩
  | .busy .testQWait => some ⟨2, s.work.mr.n - 1⟩
  | .busy .drawP => some ⟨Config.winLo, Config.winHi⟩
  | .busy .drawQ => some ⟨Config.winLo, Config.winHi⟩
  | .busy .drawE => some ⟨2, s.work.kg.phi⟩
  | .busy .accepted => none
  | .busy .decomposing => none
  | .busy .unspecified => none
  | .idle => none
  | .halt => none

/-- The invariants among the fields of `STATUS` (R25), by mode. -/
def statusInv (s : State) : Bool :=
  match s.mode with
  | .busy _ => !s.done && !s.fail && s.err == .noError && s.rvalid == 0
  | .halt =>
    s.done && !s.fail && s.rvalid == 0 &&
      (s.err == .zeroModulus || s.err == .dataRange || s.err == .operand || s.err == .illegalCmd)
  | .idle =>
    if s.done then
      (if s.fail then s.err == .retryExhausted && s.rvalid == 0 else s.err == .noError)
    else !s.fail && s.err == .noError && s.rvalid == 0 && s.cmd == 0

/-- `RVALID[i] = 0` implies `RES[i] = 0` (R21). -/
def resultInv (s : State) : Bool :=
  (s.rvalid.getLsbD 0 || s.res.r0 == 0) && (s.rvalid.getLsbD 1 || s.res.r1 == 0) &&
    (s.rvalid.getLsbD 2 || s.res.r2 == 0) && (s.rvalid.getLsbD 3 || s.res.r3 == 0) &&
    (s.rvalid.getLsbD 4 || s.res.r4 == 0)

/-- Every working register is zero whenever the block is not `BUSY` (R26, R28), and when a command has been accepted and
has not started (R241). -/
def workInv (s : State) : Bool :=
  match s.mode with
  | .idle => s.work == Work.zero
  | .halt => s.work == Work.zero
  | .busy .accepted => s.work == Work.zero
  | .busy .isPrimeWait => true
  | .busy .drawP => true
  | .busy .testPWait => true
  | .busy .drawQ => true
  | .busy .testQWait => true
  | .busy .drawE => true
  | .busy .decomposing => true
  | .busy .unspecified => true

/-- The outstanding request is the one the sequencer's position asks for (R29), and it is the newest request seen on the
port (R72). -/
def portInv (s : State) : Bool :=
  s.port == expectedRequest s && (s.port.isNone || lastRequest s.trace == s.port)

/-- While a command waits on the random source `CMD` holds its word (R23, R71). -/
def cmdInv (s : State) : Bool :=
  match s.mode with
  | .busy .isPrimeWait => s.cmd == encode .isprime
  | .busy .drawP => s.cmd == encode .keygen
  | .busy .testPWait => s.cmd == encode .keygen
  | .busy .drawQ => s.cmd == encode .keygen
  | .busy .testQWait => s.cmd == encode .keygen
  | .busy .drawE => s.cmd == encode .keygen
  | .busy .decomposing => s.cmd == encode .keygen
  | .busy .unspecified => true
  | .busy .accepted => true
  | .idle => true
  | .halt => true

/-- The invariants of the block that need no premise on the environment. Nothing is said of a block that has no specified
behaviour (R74, log entry 13). -/
abbrev BlockInv (s : State) : Prop :=
  s.mode = .busy .unspecified ∨
    (statusInv s = true ∧ resultInv s = true ∧ workInv s = true ∧ portInv s = true ∧ cmdInv s = true)

/-- A value of the prime window (R9). -/
def inWindow (v : Word) : Bool := decide (Config.winLo ≤ v ∧ v < Config.winHi)

/-- The totient of the two first results, as a natural number (R31). -/
def totient (r : ResRegs) : Nat := (r.r0.toNat - 1) * (r.r1.toNat - 1)

/-- What the five result registers `(p, q, e, d, n)` satisfy after a successful `KEYGEN` (R31), as natural numbers: the
part of R31 that speaks of their values. -/
def keyTuple (r : ResRegs) : Bool :=
  inWindow r.r0 && inWindow r.r1 && decide (r.r0 ≠ r.r1) && decide (r.r4.toNat = r.r0.toNat * r.r1.toNat) &&
    decide (2 ≤ r.r2.toNat) && decide (r.r2.toNat < totient r) && decide (Nat.gcd (totient r) r.r2.toNat = 1) &&
    decide (r.r3.toNat < totient r) && decide (r.r2.toNat * r.r3.toNat % totient r = 1)

/-- What the working registers hold while a command waits, for a source that keeps its contract (R199, R211 to R214):
`T_DECOMP` is never stuck and nothing is divided by zero. -/
def stageInv (s : State) : Bool :=
  match s.mode with
  | .busy .isPrimeWait => decide (4 ≤ s.work.mr.n)
  | .busy .drawP => true
  | .busy .testPWait => inWindow s.work.kg.p && s.work.mr.n == s.work.kg.p
  | .busy .drawQ => inWindow s.work.kg.p
  | .busy .testQWait => inWindow s.work.kg.p && inWindow s.work.kg.q && s.work.mr.n == s.work.kg.q
  | .busy .drawE =>
    inWindow s.work.kg.p && inWindow s.work.kg.q && decide (s.work.kg.p ≠ s.work.kg.q) &&
      s.work.kg.n == s.work.kg.p * s.work.kg.q && s.work.kg.phi == (s.work.kg.p - 1) * (s.work.kg.q - 1)
  | .busy .decomposing => false
  | .busy .unspecified => false
  | .busy .accepted => true
  | .idle => true
  | .halt => true

/-- The invariants that hold as long as the random source keeps its contract: the five registers are marked valid together
only when they hold a key tuple (R31, R221 (c)). -/
abbrev KeyInv (s : State) : Prop :=
  stageInv s = true ∧ (s.rvalid = 0b11111 → keyTuple s.res = true)

end Sys2Proof.Machine
end

