-- ==== Sys2Proof/Certificates/Slice0/Obligations.lean ====
section
/-!
DEFINITION. The statements about the block, for the provers. Each docstring names the rule of spec/ it formalises.
-/
open Sys2Proof Sys2Proof.Machine

/-! ### Command words (spec/30_encoding.md) -/

/-- R91, R95: the words of six of the thirteen commands, written out from the opcode map, decode to their commands, and one
word of each illegal kind of R95 is refused. The four NAMES under which it is refused are the model's choice (log entry 11,
DESIGN CHOICE): the block shows one error for all four (R255). -/
def Obligations.CommandWordsDecode : Prop :=
  decode 0x0000000000000001 = .ok .mod ∧ decode 0x0000000000000003 = .ok .modadd ∧
    decode 0x0000000000000103 = .ok .modsub ∧ decode 0x0000000000000008 = .ok .modinv ∧
    decode 0x000000000000000A = .ok .keygen ∧ decode 0x000000000000000C = .ok .clr ∧
    decode 0x0000000000000000 = .error .opcodeZero ∧ decode 0x000000000000000D = .error .opcodeUndefined ∧
    decode 0x0000000000000101 = .error .subNotAllowed ∧ decode 0x0000000000000203 = .error .reservedBits

/-- R91: "a word `w` selects the row when `w & mask = match`. Every mask is `0xFFFFFFFFFFFFFFFF`, so each command has
exactly one encoding." -/
def Obligations.EachCommandHasOneEncoding : Prop :=
  (∀ i w, decode w = .ok i ↔ w = encode i) ∧
    Instr.all.map encode =
      [0x01, 0x02, 0x03, 0x103, 0x04, 0x05, 0x06, 0x07, 0x08, 0x09, 0x0A, 0x0B, 0x0C]

/-- R95: when a command word is illegal, on the number the word is. -/
def Obligations.IllegalWordsAreRefused : Prop :=
  ∀ w : Word, (∃ why, decode w = .error why) ↔
    (w.toNat / 2 ^ 9 ≠ 0 ∨ w.toNat % 2 ^ 8 = 0 ∨ 0x0D ≤ w.toNat % 2 ^ 8 ∨
      (w.toNat / 2 ^ 8 % 2 = 1 ∧ w.toNat % 2 ^ 8 ≠ 3))

/-! ### The sequencer and the host's accesses (spec/48_system.md, spec/20_memory.md) -/

/-- R241: an accepted word that decodes to a command is run as that command, when the sequencer's time has come (`.run`
stands next) or nothing else is to happen; the step around `exec` only takes the event off the list. -/
def Obligations.StepRunsTheAcceptedCommand : Prop :=
  ∀ i s, s.mode = .busy .accepted → decode s.cmd = .ok i →
    (s.env = [] → step s = exec i s) ∧ (∀ rest, s.env = .run :: rest → step s = exec i { s with env := rest })

/-- R95, R255: an accepted word that is illegal ends the command in the fatal class with `ERR_ILLEGAL_CMD`; the word stays
readable in `CMD`. As in StepRunsTheAcceptedCommand, the sequencer's time has come (`.run` stands next) or nothing else is to
happen. -/
def Obligations.IllegalWordHaltsTheBlock : Prop :=
  ∀ s why, s.mode = .busy .accepted → decode s.cmd = .error why →
    (s.env = [] → HaltsWith .illegalCmd s (step s)) ∧
    (∀ rest, s.env = .run :: rest → HaltsWith .illegalCmd { s with env := rest } (step s))

/-- R241: the acceptance event. -/
def Obligations.WriteToCmdIsAccepted : Prop :=
  ∀ s w rest, s.mode = .idle → s.env = .write 0 w :: rest →
    ∃ t, step s = .next t ∧ t.mode = .busy .accepted ∧ t.cmd = w ∧ t.res = ResRegs.zero ∧ t.rvalid = 0 ∧
      t.done = false ∧ t.fail = false ∧ t.err = .noError ∧ t.op = s.op ∧ t.work = s.work ∧ t.port = s.port ∧
      t.env = rest ∧ t.trace = s.trace

/-- R65: the effect of a host write, by register and by `MODE`, wherever the spec specifies the block (R74 specifies nothing in
the stage `unspecified`, log entry 13). -/
def Obligations.HostWritesByMode : Prop :=
  ∀ s i v rest, s.mode ≠ .busy .unspecified → s.env = .write i v :: rest →
    (s.mode ≠ .idle → step s = .next { s with env := rest }) ∧
    (s.mode = .idle →
      (i = 0 → step s = .next { accept v s with env := rest }) ∧
      (i = 2 → step s = .next { s with op := { s.op with o0 := v }, env := rest }) ∧
      (i = 3 → step s = .next { s with op := { s.op with o1 := v }, env := rest }) ∧
      (i = 4 → step s = .next { s with op := { s.op with o2 := v }, env := rest }) ∧
      (i ≠ 0 → i ≠ 2 → i ≠ 3 → i ≠ 4 → step s = .next { s with env := rest }))

/-- R60, R64: what a host read returns, in every mode, wherever the spec specifies the block (R74 specifies nothing in the stage
`unspecified`, log entry 13); nothing of the block changes. -/
def Obligations.HostReadsReturnTheRegister : Prop :=
  ∀ s i rest, s.mode ≠ .busy .unspecified → s.env = .read i :: rest →
    step s = .next
      { s with
        env := rest
        trace := .read i
          ([s.cmd, s.status, s.op.o0, s.op.o1, s.op.o2, 0, 0, 0, s.res.r0, s.res.r1, s.res.r2, s.res.r3, s.res.r4, 0, 0,
            0].getD i.val 0) :: s.trace }

/-- R24: the layout of `STATUS`, as a sum of its fields at their places. -/
def Obligations.StatusLayout : Prop :=
  ∀ s : State, s.status.toNat =
    s.busyBit.toNat + 2 * s.done.toNat + 4 * s.haltBit.toNat + 8 * s.fail.toNat + 16 * s.err.code.toNat +
      256 * s.rvalid.toNat

/-- R242: the `STATUS` values a host can read after each end, while `BUSY` (after an acceptance) and after reset. -/
def Obligations.StatusAfterEachEnd : Prop :=
  (∀ r rv s, (endSuccess r rv s).status.toNat = 0x02 + 256 * rv.toNat) ∧
    (∀ s, s.rvalid = 0 → (endRecoverable .retryExhausted s).status = 0x5A ∧
      (endFatal .zeroModulus s).status = 0x16 ∧ (endFatal .dataRange s).status = 0x26 ∧
      (endFatal .operand s).status = 0x36 ∧ (endFatal .illegalCmd s).status = 0x46) ∧
    (∀ w s, (accept w s).status = 0x01) ∧ State.reset.status = 0

/-- R32: the reset value of every piece of state. -/
def Obligations.ResetValues : Prop :=
  State.reset.mode = .idle ∧ State.reset.cmd = 0 ∧ State.reset.status = 0 ∧ State.reset.op = ⟨0, 0, 0⟩ ∧
    State.reset.res = ⟨0, 0, 0, 0, 0⟩ ∧ State.reset.work = Work.zero ∧ State.reset.port = none ∧
    State.reset.done = false ∧ State.reset.fail = false ∧ State.reset.err = .noError ∧ State.reset.rvalid = 0

/-- R280, R282: in any mode and at any point of a command, past a division by zero (R74) too, reset puts every piece of the block's state at its reset value;
nothing is recorded. What the outside agents do next, and what they have seen, is not the block's. An answer that the
outstanding request took just before the reset stays consumed (R282). The model's own in it: that an answer and a reset
before anything further make one event, `answerReset` (log entry 6, DESIGN CHOICE), and that an answer no request waits for
is taken by nothing when it arrives before the reset, which R282 says of one that arrives after it (log entry 9, DEDUCED). -/
def Obligations.ResetClearsTheBlock : Prop :=
  (∀ s rest, s.env = .reset :: rest → step s = .next { State.reset with env := rest, trace := s.trace }) ∧
    (∀ s v rest, s.env = .answerReset v :: rest →
      (∀ req, s.port = some req →
        step s = .next { State.reset with env := rest, trace := .answered v :: s.trace }) ∧
      (s.port = none → step s = .next { State.reset with env := rest, trace := s.trace }))

/-- R259, R262: "the block stays halted until the reset input is asserted", as it is in two of the outside events. -/
def Obligations.OnlyResetLeavesHalt : Prop :=
  ∀ s t, s.mode = .halt → step s = .next t → t.mode ≠ .halt →
    ∃ rest, s.env = .reset :: rest ∨ ∃ v, s.env = .answerReset v :: rest

/-- R283: `MOD` right after reset halts with `ERR_ZERO_MODULUS`, `EGCD` right after reset returns `(0, 1, 0)`. -/
def Obligations.FirstCommandAfterReset : Prop :=
  HaltsWith .zeroModulus (accept (encode .mod) State.reset) (step (accept (encode .mod) State.reset)) ∧
    EndsWith ⟨0, 1, 0, 0, 0⟩ 0b00111 (accept (encode .egcd) State.reset) (step (accept (encode .egcd) State.reset))

/-- R32, R74, R259: with nothing left to happen outside, a block in `IDLE`, in `HALT` or waiting on the random source stays as
it is. The one other stage the hypothesis takes in is `decomposing`, in which the candidate 1 is halved for ever (R191). That
the block comes to it and stays in it, and that the primality unit's `s`, `rounds`, `k`, `a`, `x` and `r` keep what they held
there although the loop of R191 counts `s` up, is the model's (log entry 8, DEDUCED and DESIGN CHOICE). -/
def Obligations.BlockWaitsForTheOutside : Prop :=
  ∀ s, s.env = [] → s.mode ≠ .busy .accepted → s.mode ≠ .busy .unspecified → step s = .next s

/-- R69, R71, R72: an answer that stands next goes to the outstanding request: the command takes it and goes on over the
answers that follow. A command left waiting resumes as if the answer had stood next from the start: where `exec` of a command
took the answers `vs` and waits, a later answer leads to what `exec` gives for `vs` and that answer in a row, whatever
follows. With no request outstanding an answer changes nothing, which is the model's reading of R282 (log entry 9, DEDUCED);
that a command goes on over all the answers that stand next is log entry 6 (DESIGN CHOICE, allowed by R15). That an answer
changes nothing in the stages `decomposing` and `unspecified` is the model's too (log entries 8 and 13). -/
def Obligations.AnswersGoToTheOutstandingRequest : Prop :=
  (∀ s v rest, s.env = .answer v :: rest →
    (∀ req, s.port = some req → step s = goOn (takeAnswer Config.params v s) (drain Config.params rest)) ∧
    (s.port = none → step s = .next { s with env := rest })) ∧
  (∀ i s t, exec i s = .next t → t.port ≠ none →
    ∃ vs, s.env = answers vs ++ t.env ∧ (∀ v rest, t.env ≠ .answer v :: rest) ∧
      ∀ v l, step { t with env := .answer v :: l } = exec i { s with env := answers (vs ++ [v]) ++ l })

/-- R96: the host sequence of a command line, from `IDLE`: after its five events the command has run on these operands. -/
def Obligations.CommandLineRunsTheCommand : Prop :=
  ∀ i a b c s rest, s.mode = .idle → s.env = commandLine i a b c ++ rest →
    Host.Core.run Sys2Proof.core 5 s = exec i { accept (encode i) s with op := ⟨a, b, c⟩, env := rest }

/-! ### Errors (spec/60_exceptions.md) -/

/-- R252: a zero modulus operand halts the block, whatever the other operands are. -/
def Obligations.ZeroModulusHalts : Prop :=
  ∀ s,
    (s.op.o1 = 0 → HaltsWith .zeroModulus s (exec .mod s) ∧ HaltsWith .zeroModulus s (exec .quot s) ∧
      HaltsWith .zeroModulus s (exec .modinv s)) ∧
    (s.op.o2 = 0 → HaltsWith .zeroModulus s (exec .modadd s) ∧ HaltsWith .zeroModulus s (exec .modsub s) ∧
      HaltsWith .zeroModulus s (exec .modmul s) ∧ HaltsWith .zeroModulus s (exec .modpow s) ∧
      HaltsWith .zeroModulus s (exec .rsaxf s)) ∧
    (s.op.o0 = 0 → HaltsWith .zeroModulus s (exec .isprime s))

/-- R253, R254: `RSAXF` with `data >= n` and `ISPRIME` of 1 halt the block. -/
def Obligations.RefusedOperandsHalt : Prop :=
  ∀ s,
    (s.op.o2 ≠ 0 → s.op.o2 ≤ s.op.o0 → HaltsWith .dataRange s (exec .rsaxf s)) ∧
    (s.op.o0 = 1 → HaltsWith .operand s (exec .isprime s))

/-- R261: every fatal error is detected at acceptance: no draw was made, no result written, and nothing but the end event
happened. It holds of every command, `ISPRIME` and `KEYGEN` with their draws among them. -/
def Obligations.FatalErrorsArePrecise : Prop :=
  ∀ i s t, exec i s = .next t → t.mode = .halt → HaltsWith t.err s (exec i s)

/-- R122, R221 (a), R74: every command and every step has a next state, and no command but `KEYGEN` can come to a division by
zero, after which it has no specified behaviour. Of the stage `unspecified`, in which the model keeps such a block, it says
only that the machine goes on, so that a reset can be taken (log entry 13, DESIGN CHOICE). -/
def Obligations.EveryStepHasANextState : Prop :=
  (∀ i s, ∃ t, exec i s = .next t) ∧ (∀ s, ∃ t, step s = .next t) ∧
    (∀ i s t, exec i s = .next t → t.mode = .busy .unspecified → i = .keygen)

/-! ### Reduction (spec/40_reduction.md) -/

/-- R123, R124: `MOD` and `QUOT`, with their encodings. -/
def Obligations.ModAndQuotComplete : Prop :=
  decode 0x0000000000000001 = .ok .mod ∧ decode 0x0000000000000002 = .ok .quot ∧ ∀ s,
    if s.op.o1 = 0 then HaltsWith .zeroModulus s (exec .mod s) ∧ HaltsWith .zeroModulus s (exec .quot s)
    else EndsWith { s.res with r0 := s.op.o0 % s.op.o1 } 0b00001 s (exec .mod s) ∧
      EndsWith { s.res with r0 := s.op.o0 / s.op.o1 } 0b00001 s (exec .quot s)

/-- R121: what the pseudocode of `DivMod` (R120) computes: `DivMod(a, n) = (a div n, a mod n)`, so `q * n + r = a` and
`r < n`. -/
def Obligations.LongDivisionComputesQuotientAndRemainder : Prop :=
  ∀ a n : Word, n ≠ 0 →
    (divLoop a n).q.toNat = a.toNat / n.toNat ∧ (divLoop a n).r.toNat = a.toNat % n.toNat ∧
      (divLoop a n).q.toNat * n.toNat + (divLoop a n).r.toNat = a.toNat ∧ (divLoop a n).r.toNat < n.toNat

/-- R125: the registers the reduction unit's step description leaves are those of the long division. -/
def Obligations.ReductionUnitRunsTheLongDivision : Prop :=
  ∀ (a n : Word) (u : Alu), n ≠ 0 → (runDiv a n u).div = divLoop a n

/-! ### Addition (spec/41_modadd.md) -/

/-- R142, R143: `MODADD` and `MODSUB`, with their encodings; the values are those of R141. -/
def Obligations.AddAndSubtractComplete : Prop :=
  decode 0x0000000000000003 = .ok .modadd ∧ decode 0x0000000000000103 = .ok .modsub ∧ ∀ s,
    if s.op.o2 = 0 then HaltsWith .zeroModulus s (exec .modadd s) ∧ HaltsWith .zeroModulus s (exec .modsub s)
    else (∃ v : Word, v.toNat = (s.op.o0.toNat + s.op.o1.toNat) % s.op.o2.toNat ∧
        EndsWith { s.res with r0 := v } 0b00001 s (exec .modadd s)) ∧
      (∃ v : Word, (v.toNat : Int) = ((s.op.o0.toNat : Int) - s.op.o1.toNat) % s.op.o2.toNat ∧
        EndsWith { s.res with r0 := v } 0b00001 s (exec .modsub s))

/-- R141: what the pseudocode of `ModAdd` (R140) computes. -/
def Obligations.ModAddPseudocodeComputesTheSum : Prop :=
  ∀ a b n : Word, n ≠ 0 →
    (modAdd .add a b n).toNat = (a.toNat + b.toNat) % n.toNat ∧
      ((modAdd .sub a b n).toNat : Int) = ((a.toNat : Int) - b.toNat) % n.toNat

/-! ### Multiplication (spec/42_modmul.md) -/

/-- R152: `MODMUL`, with its encoding. -/
def Obligations.MultiplyCompletes : Prop :=
  decode 0x0000000000000004 = .ok .modmul ∧ ∀ s,
    if s.op.o2 = 0 then HaltsWith .zeroModulus s (exec .modmul s)
    else ∃ v : Word, v.toNat = s.op.o0.toNat * s.op.o1.toNat % s.op.o2.toNat ∧
      EndsWith { s.res with r0 := v } 0b00001 s (exec .modmul s)

/-- R151: what the pseudocode of `ModMul` (R150) computes; it is symmetric in value. -/
def Obligations.ModMulPseudocodeComputesTheProduct : Prop :=
  ∀ x y n : Word, n ≠ 0 → (modMul x y n).toNat = x.toNat * y.toNat % n.toNat ∧ modMul x y n = modMul y x n

/-- R144, R153: the adder and the multiplier, run step by step on their registers, come to the values of the pseudocode,
whatever their registers held. -/
def Obligations.AdderAndMultiplierUnits : Prop :=
  ∀ (op : AddOp) (x y n : Word) (u : Alu), n ≠ 0 →
    (runAdd op x y n u).div.r = modAdd op x y n ∧ (runMul x y n u).mul.acc = modMul x y n

/-! ### Exponentiation (spec/43_modpow.md) -/

/-- R163: `MODPOW`, with its encoding; `exp = 0` gives 1 for every modulus, 1 among them. -/
def Obligations.PowerCompletes : Prop :=
  decode 0x0000000000000005 = .ok .modpow ∧ ∀ s,
    if s.op.o2 = 0 then HaltsWith .zeroModulus s (exec .modpow s)
    else ∃ v : Word,
      v.toNat = (if s.op.o1 = 0 then 1 else s.op.o0.toNat ^ s.op.o1.toNat % s.op.o2.toNat) ∧
        EndsWith { s.res with r0 := v } 0b00001 s (exec .modpow s)

/-- R161: what the pseudocode of `ModPow` (R160) computes, and its one irregular case. -/
def Obligations.ModPowPseudocodeComputesThePower : Prop :=
  (∀ base e n : Word, 2 ≤ n.toNat →
      (modPow base e n).toNat = base.toNat ^ e.toNat % n.toNat ∧ (modPow base e n).toNat < n.toNat) ∧
    (∀ base : Word, modPow base 0 1 = 1) ∧ (∀ base e : Word, 1 ≤ e.toNat → modPow base e 1 = 0)

/-- R162: "`ModPowIter(base, exp, n) = ModPow(base, exp, n)` for all arguments": the iterative unit, on its registers,
comes to the recursive function's value. -/
def Obligations.IterativePowerEqualsRecursive : Prop :=
  ∀ (base e n : Word) (u : Alu), n ≠ 0 → (runPow base e n u).pow.r = modPow base e n

/-! ### Euclid (spec/44_euclid.md) -/

/-- R176, R177 (with R171): `EGCD` and `GCD`, with their encodings, complete for every pair of operands: the components of
`ExtendedEuclid(a, b)`, which are the gcd and coefficients that, read as two's complement, satisfy Bézout's equation over the
integers. -/
def Obligations.EuclidCompletes : Prop :=
  decode 0x0000000000000006 = .ok .egcd ∧ decode 0x0000000000000007 = .ok .gcd ∧ ∀ s, ∃ g x y : Word,
    extendedEuclid s.op.o0 s.op.o1 = (g, x, y) ∧
      g.toNat = Nat.gcd s.op.o0.toNat s.op.o1.toNat ∧
      (s.op.o0.toNat : Int) * signed x + (s.op.o1.toNat : Int) * signed y = g.toNat ∧
      EndsWith { s.res with r0 := g, r1 := x, r2 := y } 0b00111 s (exec .egcd s) ∧
      EndsWith { s.res with r0 := g } 0b00001 s (exec .gcd s)

/-- R172: "`ExtendedEuclidIter(a, b) = ExtendedEuclid(a, b)` for all arguments, all three components". -/
def Obligations.IterativeEuclidEqualsRecursive : Prop :=
  ∀ (a b : Word) (u : Alu),
    ((runEuclid a b u).euc.r0, (runEuclid a b u).euc.s0, (runEuclid a b u).euc.t0) = extendedEuclid a b

/-- R178 (with R175): `MODINV`, with its encoding, completes for every modulus but 0: `RES[0]` is the coefficient `x` of
`ExtendedEuclid(a, m)`, corrected once by the modulus when its top bit is set, and `RES[1]` is the gcd. `RES[0]` is an inverse
below the modulus when the gcd is 1, and in every case a value with `(inv * a) mod m = g mod m`. -/
def Obligations.ModInvCompletes : Prop :=
  decode 0x0000000000000008 = .ok .modinv ∧ ∀ s,
    if s.op.o1 = 0 then HaltsWith .zeroModulus s (exec .modinv s)
    else ∃ v g x y : Word,
      extendedEuclid s.op.o0 s.op.o1 = (g, x, y) ∧ v = (if x.getLsbD 63 then x + s.op.o1 else x) ∧
        g.toNat = Nat.gcd s.op.o0.toNat s.op.o1.toNat ∧
        v.toNat * s.op.o0.toNat % s.op.o1.toNat = g.toNat % s.op.o1.toNat ∧
        (g = 1 → v.toNat < s.op.o1.toNat) ∧
        EndsWith { s.res with r0 := v, r1 := g } 0b00011 s (exec .modinv s)

/-! ### Primality (spec/45_primality.md) -/

/-- R191: the decomposition: for `N >= 2`, `d` is odd, `0 <= s <= 63` and `N - 1 = 2^s * d`. -/
def Obligations.DecompositionIsOddTimesPowerOfTwo : Prop :=
  ∀ n : Word, 2 ≤ n.toNat →
    (decompose 64 (n - 1) 0).1.toNat % 2 = 1 ∧ (decompose 64 (n - 1) 0).2.toNat ≤ 63 ∧
      n.toNat - 1 = 2 ^ (decompose 64 (n - 1) 0).2.toNat * (decompose 64 (n - 1) 0).1.toNat

/-- R193: a round for base `a` accepts exactly when `a^d` is 1 or one of `a^d, a^(2d), ..., a^(2^(s-1) d)` is `N - 1`, all
modulo `N`, where `N - 1 = 2^s * d` with `d` odd. -/
def Obligations.RoundComparesTheSquarings : Prop :=
  ∀ (n a : Word) (s d : Nat), 2 ≤ n.toNat → d % 2 = 1 → n.toNat - 1 = 2 ^ s * d →
    (roundAccepts n a = true ↔
      a.toNat ^ d % n.toNat = 1 ∨ ∃ r, r < s ∧ a.toNat ^ (2 ^ r * d) % n.toNat = n.toNat - 1)

/-- R195, R197: `ISPRIME` of `N >= 2` with no draw needed: some fixed base accepts and the verdict is 1 for every repeat
count, or none does and `repeat <= 7` and the verdict is 0. -/
def Obligations.IsprimeCompletesWithoutDraws : Prop :=
  ∀ s, 2 ≤ s.op.o0.toNat →
    (fixedBaseAccepts s.op.o0 = true → EndsWith { s.res with r0 := 1 } 0b00001 s (exec .isprime s)) ∧
    (fixedBaseAccepts s.op.o0 = false → s.op.o1.toNat ≤ 7 →
      EndsWith { s.res with r0 := 0 } 0b00001 s (exec .isprime s))

/-- R195: `ISPRIME` with drawn bases: when no fixed base accepts and the source answers next, each draw is the request
`(2, N - 1)`; the first accepting base ends the test with 1, and `repeat - 7` bases that do not accept end it with 0. -/
def Obligations.IsprimeCompletesWithDraws : Prop :=
  ∀ s fails rest, 2 ≤ s.op.o0.toNat → fixedBaseAccepts s.op.o0 = false → (∀ b ∈ fails, roundAccepts s.op.o0 b = false) →
    (∀ a, roundAccepts s.op.o0 a = true → 7 + fails.length < s.op.o1.toNat →
      s.env = answers (fails ++ [a]) ++ rest →
        EndsWith { s.res with r0 := 1 } 0b00001
          { s with env := rest, trace := tracedDraws ⟨2, s.op.o0 - 1⟩ (fails ++ [a]) s.trace } (exec .isprime s)) ∧
    (fails ≠ [] → 7 + fails.length = s.op.o1.toNat → s.env = answers fails ++ rest →
        EndsWith { s.res with r0 := 0 } 0b00001
          { s with env := rest, trace := tracedDraws ⟨2, s.op.o0 - 1⟩ fails s.trace } (exec .isprime s))

/-- R196 (b): the verdict is 1 for every prime, and no draw is made. -/
def Obligations.PrimeIsNeverCalledComposite : Prop :=
  ∀ s, Nat.Prime s.op.o0.toNat → EndsWith { s.res with r0 := 1 } 0b00001 s (exec .isprime s)

/-- R196 (c): a verdict of 0 means composite, for every repeat count and every answer of the source. -/
def Obligations.FalseVerdictMeansComposite : Prop :=
  ∀ s t, 2 ≤ s.op.o0.toNat → exec .isprime s = .next t → t.mode = .idle → t.res.r0 = 0 → ¬ Nat.Prime s.op.o0.toNat

/-- R196 (d): a verdict of 1 does not mean prime: `2047 = 23 * 89` and `3215031751`, which lies in the key-generation
window, are both accepted. -/
def Obligations.TrueVerdictIsNoProofOfPrimality : Prop :=
  (∀ s, s.op.o0 = 2047 → EndsWith { s.res with r0 := 1 } 0b00001 s (exec .isprime s)) ∧ 2047 = 23 * 89 ∧
    (∀ s, s.op.o0 = 3215031751 → EndsWith { s.res with r0 := 1 } 0b00001 s (exec .isprime s)) ∧
    3215031751 = 151 * 751 * 28351 ∧ inWindow 3215031751 = true

/-! ### Key generation (spec/46_keygen.md) -/

/-- R219: `KEYGEN` completes when the source answers next with two different window values that a fixed base accepts and an
`e` coprime to the totient: the tuple `(p, q, e, d, n)` is in the result registers, `d` being the inverse of `e`. Neither of
the two OPEN parameters matters then. -/
def Obligations.KeygenCompletes : Prop :=
  ∀ s p q e rest, inWindow p = true → inWindow q = true → p ≠ q → fixedBaseAccepts p = true →
    fixedBaseAccepts q = true → 2 ≤ e.toNat → e.toNat < (p.toNat - 1) * (q.toNat - 1) →
    Nat.gcd ((p.toNat - 1) * (q.toNat - 1)) e.toNat = 1 → s.env = answers [p, q, e] ++ rest →
      ∃ d n phi : Word, n.toNat = p.toNat * q.toNat ∧ phi.toNat = (p.toNat - 1) * (q.toNat - 1) ∧
        d.toNat < phi.toNat ∧ e.toNat * d.toNat % phi.toNat = 1 ∧
        EndsWith ⟨p, q, e, d, n⟩ 0b11111
          { s with
            env := rest
            trace := [.answered e, .request 2 phi, .answered q, .request Config.winLo Config.winHi, .answered p,
              .request Config.winLo Config.winHi] ++ s.trace }
          (exec .keygen s)

/-- R72, R211, R195: with no answer standing next, `KEYGEN` waits with the window request outstanding, and `ISPRIME` of a
candidate that no fixed base accepts waits, when `repeat > 7`, with the request `(2, N - 1)`. -/
def Obligations.CommandsWaitForTheSource : Prop :=
  ∀ s, (∀ v rest, s.env ≠ .answer v :: rest) →
    WaitsWith .drawP ⟨134217728, 4294967296⟩ s (exec .keygen s) ∧
    (2 ≤ s.op.o0.toNat → fixedBaseAccepts s.op.o0 = false → 7 < s.op.o1.toNat →
      WaitsWith .isPrimeWait ⟨2, s.op.o0 - 1⟩ s (exec .isprime s))

/-- R217, R260: with `RETRY_LIMIT = L > 0` and a repeat count of at most 7, `L` candidates for `p` that the test rejects end
`KEYGEN` in the recoverable class with `ERR_RETRY_EXHAUSTED`: no result is written, the block is back in `IDLE`, and the next
answer is not taken. -/
def Obligations.RetryLimitEndsKeygen : Prop :=
  ∀ (par : Config.Params) s cs rest, par.retryLimit ≠ 0 → par.kgRepeat.toNat ≤ 7 → cs.length = par.retryLimit.toNat →
    (∀ c ∈ cs, 2 ≤ c.toNat ∧ fixedBaseAccepts c = false) → s.env = answers cs ++ rest →
      ∃ t, keygenWith par s = .next t ∧ t.mode = .idle ∧ t.done = true ∧ t.fail = true ∧ t.err = .retryExhausted ∧
        t.res = s.res ∧ t.rvalid = s.rvalid ∧ t.cmd = s.cmd ∧ t.op = s.op ∧ t.work = Work.zero ∧ t.port = none ∧
        t.env = rest ∧ t.trace = tracedDraws ⟨Config.winLo, Config.winHi⟩ cs s.trace

/-- R210 (S1, S2, S3), R211, R212, R213, R217, R220: the tests of the candidates. `KEYGEN` starts with the window request for
`p` and `ATTEMPTS = 0`. In `K_DRAWP` an answer `c` is the candidate: with the bases `bs` drawn for its test (requests
`(2, c - 1)`, after the request that drew `c` and before the next window request), a test that passes keeps `c` as `p` and
asks for `q`; one that fails is one rejection and asks for `p` again; one without a verdict waits for the next base. In
`K_DRAWQ` the same goes for `q`, `p` being kept by every retry: a `q` that passes and is not `p` leads to the products and
the request `(2, phi)`, and one that passes and is `p` is one rejection and asks for `q` again. The rest of the answers
goes to the block so reached. One `ATTEMPTS` counts the rejections of all the loops. -/
def Obligations.KeygenTestsItsCandidates : Prop :=
  ∀ par : Config.Params,
    (∀ s, ∃ t, keygenWith par s = drain par s.env t ∧ KeygenWaits .drawP windowRequest 0 s.trace s t) ∧
    (∀ s req c bs rest, s.mode = .busy .drawP → s.port = some req →
      (TestPasses par.kgRepeat c bs → ∃ t, drain par (answers (c :: bs) ++ rest) s = drain par rest t ∧
        KeygenWaits .drawQ windowRequest s.work.kg.attempts (tracedDraws ⟨2, c - 1⟩ bs (.answered c :: s.trace)) s t ∧
        t.work.kg.p = c) ∧
      (TestFails par.kgRepeat c bs → ∃ t, drain par (answers (c :: bs) ++ rest) s = drain par rest t ∧
        Rejected par .drawP windowRequest (tracedDraws ⟨2, c - 1⟩ bs (.answered c :: s.trace)) s t) ∧
      (TestUndecided par.kgRepeat c bs → ∃ t, drain par (answers (c :: bs) ++ rest) s = drain par rest t ∧
        KeygenWaits .testPWait ⟨2, c - 1⟩ s.work.kg.attempts (tracedDraws ⟨2, c - 1⟩ bs (.answered c :: s.trace)) s t)) ∧
    (∀ s req c bs rest, s.mode = .busy .drawQ → s.port = some req →
      (TestPasses par.kgRepeat c bs → c ≠ s.work.kg.p → ∃ t, drain par (answers (c :: bs) ++ rest) s = drain par rest t ∧
        KeygenWaits .drawE ⟨2, (s.work.kg.p - 1) * (c - 1)⟩ s.work.kg.attempts
          (tracedDraws ⟨2, c - 1⟩ bs (.answered c :: s.trace)) s t ∧
        t.work.kg.p = s.work.kg.p ∧ t.work.kg.q = c ∧ t.work.kg.n = s.work.kg.p * c ∧
        t.work.kg.phi = (s.work.kg.p - 1) * (c - 1)) ∧
      ((TestPasses par.kgRepeat c bs ∧ c = s.work.kg.p) ∨ TestFails par.kgRepeat c bs →
        ∃ t, drain par (answers (c :: bs) ++ rest) s = drain par rest t ∧
          Rejected par .drawQ windowRequest (tracedDraws ⟨2, c - 1⟩ bs (.answered c :: s.trace)) s t ∧
          (t.busyBit = true → t.work.kg.p = s.work.kg.p)) ∧
      (TestUndecided par.kgRepeat c bs → ∃ t, drain par (answers (c :: bs) ++ rest) s = drain par rest t ∧
        KeygenWaits .testQWait ⟨2, c - 1⟩ s.work.kg.attempts (tracedDraws ⟨2, c - 1⟩ bs (.answered c :: s.trace)) s t ∧
        t.work.kg.p = s.work.kg.p))

/-- R210 (S4 to S6), R214, R215, R216, R217, R220: the draw of `e`. In `K_DRAWE` an answer `e` with `gcd(phi, e) != 1` is one
rejection and asks for `e` again, `p`, `q`, `n` and `phi` being kept. One with gcd 1 ends `KEYGEN` in success with the
inverse of `e`, for `phi >= 2`; for `phi = 1`, which only a source outside its contract can bring about, the verification of
step 6 fails: one rejection, and the restart from the window request for `p`. -/
def Obligations.KeygenDrawsTheExponent : Prop :=
  ∀ (par : Config.Params) s req e rest, s.mode = .busy .drawE → s.port = some req →
    (Nat.gcd s.work.kg.phi.toNat e.toNat ≠ 1 → ∃ t, drain par (.answer e :: rest) s = drain par rest t ∧
      Rejected par .drawE ⟨2, s.work.kg.phi⟩ (.answered e :: s.trace) s t ∧
      (t.busyBit = true → t.work.kg.p = s.work.kg.p ∧ t.work.kg.q = s.work.kg.q ∧ t.work.kg.n = s.work.kg.n ∧
        t.work.kg.phi = s.work.kg.phi)) ∧
    (Nat.gcd s.work.kg.phi.toNat e.toNat = 1 → 2 ≤ s.work.kg.phi.toNat →
      ∃ d : Word, d.toNat < s.work.kg.phi.toNat ∧ e.toNat * d.toNat % s.work.kg.phi.toNat = 1 ∧
        EndsWith ⟨s.work.kg.p, s.work.kg.q, e, d, s.work.kg.n⟩ 0b11111
          { s with env := rest, trace := .answered e :: s.trace } (drain par (.answer e :: rest) s)) ∧
    (s.work.kg.phi = 1 → ∃ t, drain par (.answer e :: rest) s = drain par rest t ∧
      Rejected par .drawP windowRequest (.answered e :: s.trace) s t)

/-- R217, R256: with `RETRY_LIMIT = 0` exhaustion is never raised, for every repeat count and every answer of the source:
neither by a `KEYGEN` as it is accepted nor by a block, in whatever state it waits, as it goes on over the answers that come
later. -/
def Obligations.NoLimitNeverExhausts : Prop :=
  ∀ (par : Config.Params) s, par.retryLimit = 0 → s.err = .noError →
    (∀ t, keygenWith par s = .next t → t.err = .noError) ∧
    (∀ v t, takeAnswer par v s = .next t → t.err = .noError) ∧
    (∀ l t, drain par l s = .next t → t.err = .noError)

/-- R221 (a), R70: as long as the source keeps its contract the block never comes to a division by zero: whatever answer
inside the request's range it takes, it goes on to a state in which its behaviour is specified. -/
def Obligations.ContractKeepsKeygenRunning : Prop :=
  ∀ (par : Config.Params) s req v, BlockInv s → KeyInv s → s.port = some req → req.lo ≤ v → v < req.hi →
    ∃ t, takeAnswer par v s = .next t ∧ t.mode ≠ .busy .unspecified

/-! ### The transform and CLR (spec/47_transform.md, spec/48_system.md) -/

/-- R231: `RSAXF`, with its encoding: the modulus is checked first, then the data. -/
def Obligations.TransformCompletes : Prop :=
  decode 0x000000000000000B = .ok .rsaxf ∧ ∀ s,
    if s.op.o2 = 0 then HaltsWith .zeroModulus s (exec .rsaxf s)
    else if s.op.o2 ≤ s.op.o0 then HaltsWith .dataRange s (exec .rsaxf s)
    else ∃ v : Word,
      v.toNat = (if s.op.o1 = 0 then 1 else s.op.o0.toNat ^ s.op.o1.toNat % s.op.o2.toNat) ∧
        EndsWith { s.res with r0 := v } 0b00001 s (exec .rsaxf s)

/-- R233 (b): the round trip, with the primality of `p` and `q` as a premise: a `RSAXF` with `e` and then a `RSAXF` of its
result with `d` gives the data back. -/
def Obligations.TransformRoundTrip : Prop :=
  ∀ (s : State) (p q : Nat) (e d n data : Word), Nat.Prime p → Nat.Prime q → p ≠ q → n.toNat = p * q →
    e.toNat * d.toNat % ((p - 1) * (q - 1)) = 1 → data < n →
      ∃ t u, exec .rsaxf { s with op := ⟨data, e, n⟩ } = .next t ∧
        exec .rsaxf { t with op := ⟨t.res.r0, d, n⟩ } = .next u ∧ u.mode = .idle ∧ u.rvalid = 0b00001 ∧
        u.res.r0 = data

/-- R240: `CLR` puts every operand and result register at zero and ends in success. -/
def Obligations.ClrClearsOperandsAndResults : Prop :=
  ∀ s, EndsWith ⟨0, 0, 0, 0, 0⟩ 0b00000 { s with op := ⟨0, 0, 0⟩ } (exec .clr s)

/-! ### Frames and rules of the whole machine -/

/-- R20, R23: "No command writes an operand register except `CLR`", and `CMD` keeps the command's word; it holds of every
command and every end, and of a command that waits (not of one that has no specified behaviour, R74, log entry 13). -/
def Obligations.OperandsSurviveEveryCommand : Prop :=
  ∀ i s t, exec i s = .next t → t.mode ≠ .busy .unspecified → (i ≠ .clr → t.op = s.op) ∧ t.cmd = s.cmd

/-- R71, R242: a command other than `ISPRIME` and `KEYGEN` issues no request, ends, and leaves the working registers zero. -/
def Obligations.OtherCommandsMakeNoDraw : Prop :=
  ∀ i s t, drawing i = false → exec i s = .next t →
    t.trace = s.trace ∧ t.env = s.env ∧ t.port = none ∧ t.work = Work.zero ∧ t.busyBit = false ∧ t.done = true

/-- R21, R242: the frame of the two commands that draw: `ISPRIME` writes no result register but `RES[0]`; and either of
them, where it is left waiting or ends in an error, writes none and no `RVALID` bit. (Nothing is said of a `KEYGEN` that has no
specified behaviour, R74, log entry 13.) -/
def Obligations.DrawingCommandsFrame : Prop :=
  (∀ s t, exec .isprime s = .next t →
      t.res.r1 = s.res.r1 ∧ t.res.r2 = s.res.r2 ∧ t.res.r3 = s.res.r3 ∧ t.res.r4 = s.res.r4) ∧
    (∀ i s t, drawing i = true → exec i s = .next t → t.mode ≠ .busy .unspecified →
      t.busyBit = true ∨ t.haltBit = true ∨ t.fail = true → t.res = s.res ∧ t.rvalid = s.rvalid)

/-- R26, R27, R60: no host read reaches a working register, `phi` and `ATTEMPTS` among them, or the RNG port. (In the stage
`unspecified` the value is free, log entry 13, and of it nothing more is meant than that.) -/
def Obligations.HostReadsSeeNoWorkingRegister : Prop :=
  ∀ (i : Fin 16) (s : State) (w : Work) (p : Option Request),
    hostReadValue i { s with work := w, port := p } = hostReadValue i s

/-! ### Invariants -/

/-- R21, R25, R26, R29: the reset state meets the invariants of the block, and those of a source that keeps its contract. -/
def Obligations.ResetMeetsTheInvariants : Prop :=
  BlockInv State.reset ∧ KeyInv State.reset

/-- R21, R25, R26, R29: every step keeps the invariants of the block, whatever the host does and the source answers; they say
nothing of a block that has no specified behaviour (R74, log entry 13), and a reset brings it back to them. -/
def Obligations.EveryStepKeepsBlockInv : Prop :=
  ∀ s t, BlockInv s → step s = .next t → BlockInv t

/-- R31, R221 (c): as long as the source keeps its contract, every step keeps the invariant that five valid result registers
hold a key tuple. -/
def Obligations.EveryStepKeepsKeyInv : Prop :=
  ∀ s t, BlockInv s → KeyInv s → step s = .next t → keepsContract t.trace = true → KeyInv t

/-- R73: "The block never presents a request with `from >= to`", for a source that keeps its contract. -/
def Obligations.RequestsAreNeverEmpty : Prop :=
  ∀ s req, BlockInv s → KeyInv s → s.port = some req → req.lo < req.hi
end

