-- ==== Sys2Proof/Laws/State.lean ====
section
/-!
SUPPORT. One lemma per field per update of the state, each true by unfolding, so that no later proof unfolds a record
update.
-/
namespace Sys2Proof.Machine

variable (s : State)

/-! ### accept -/

@[simp] theorem accept_mode (w : Word) : (accept w s).mode = .busy .accepted := rfl
@[simp] theorem accept_cmd (w : Word) : (accept w s).cmd = w := rfl
@[simp] theorem accept_op (w : Word) : (accept w s).op = s.op := rfl
@[simp] theorem accept_res (w : Word) : (accept w s).res = ResRegs.zero := rfl
@[simp] theorem accept_done (w : Word) : (accept w s).done = false := rfl
@[simp] theorem accept_fail (w : Word) : (accept w s).fail = false := rfl
@[simp] theorem accept_err (w : Word) : (accept w s).err = .noError := rfl
@[simp] theorem accept_rvalid (w : Word) : (accept w s).rvalid = 0 := rfl
@[simp] theorem accept_work (w : Word) : (accept w s).work = s.work := rfl
@[simp] theorem accept_port (w : Word) : (accept w s).port = s.port := rfl
@[simp] theorem accept_env (w : Word) : (accept w s).env = s.env := rfl
@[simp] theorem accept_trace (w : Word) : (accept w s).trace = s.trace := rfl

/-! ### settle -/

@[simp] theorem settle_mode : (settle s).mode = s.mode := rfl
@[simp] theorem settle_cmd : (settle s).cmd = s.cmd := rfl
@[simp] theorem settle_op : (settle s).op = s.op := rfl
@[simp] theorem settle_res : (settle s).res = s.res := rfl
@[simp] theorem settle_done : (settle s).done = true := rfl
@[simp] theorem settle_fail : (settle s).fail = s.fail := rfl
@[simp] theorem settle_err : (settle s).err = s.err := rfl
@[simp] theorem settle_rvalid : (settle s).rvalid = s.rvalid := rfl
@[simp] theorem settle_work : (settle s).work = Work.zero := rfl
@[simp] theorem settle_port : (settle s).port = none := rfl
@[simp] theorem settle_env : (settle s).env = s.env := rfl
@[simp] theorem settle_trace : (settle s).trace = s.trace := rfl

/-! ### endSuccess -/

@[simp] theorem endSuccess_mode (r : ResRegs) (rv : BitVec 5) : (endSuccess r rv s).mode = .idle := rfl
@[simp] theorem endSuccess_cmd (r : ResRegs) (rv : BitVec 5) : (endSuccess r rv s).cmd = s.cmd := rfl
@[simp] theorem endSuccess_op (r : ResRegs) (rv : BitVec 5) : (endSuccess r rv s).op = s.op := rfl
@[simp] theorem endSuccess_res (r : ResRegs) (rv : BitVec 5) : (endSuccess r rv s).res = r := rfl
@[simp] theorem endSuccess_done (r : ResRegs) (rv : BitVec 5) : (endSuccess r rv s).done = true := rfl
@[simp] theorem endSuccess_fail (r : ResRegs) (rv : BitVec 5) : (endSuccess r rv s).fail = false := rfl
@[simp] theorem endSuccess_err (r : ResRegs) (rv : BitVec 5) : (endSuccess r rv s).err = .noError := rfl
@[simp] theorem endSuccess_rvalid (r : ResRegs) (rv : BitVec 5) : (endSuccess r rv s).rvalid = rv := rfl
@[simp] theorem endSuccess_work (r : ResRegs) (rv : BitVec 5) : (endSuccess r rv s).work = Work.zero := rfl
@[simp] theorem endSuccess_port (r : ResRegs) (rv : BitVec 5) : (endSuccess r rv s).port = none := rfl
@[simp] theorem endSuccess_env (r : ResRegs) (rv : BitVec 5) : (endSuccess r rv s).env = s.env := rfl
@[simp] theorem endSuccess_trace (r : ResRegs) (rv : BitVec 5) : (endSuccess r rv s).trace = s.trace := rfl

/-! ### endFatal -/

@[simp] theorem endFatal_mode (c : ErrCode) : (endFatal c s).mode = .halt := rfl
@[simp] theorem endFatal_cmd (c : ErrCode) : (endFatal c s).cmd = s.cmd := rfl
@[simp] theorem endFatal_op (c : ErrCode) : (endFatal c s).op = s.op := rfl
@[simp] theorem endFatal_res (c : ErrCode) : (endFatal c s).res = s.res := rfl
@[simp] theorem endFatal_done (c : ErrCode) : (endFatal c s).done = true := rfl
@[simp] theorem endFatal_fail (c : ErrCode) : (endFatal c s).fail = false := rfl
@[simp] theorem endFatal_err (c : ErrCode) : (endFatal c s).err = c := rfl
@[simp] theorem endFatal_rvalid (c : ErrCode) : (endFatal c s).rvalid = s.rvalid := rfl
@[simp] theorem endFatal_work (c : ErrCode) : (endFatal c s).work = Work.zero := rfl
@[simp] theorem endFatal_port (c : ErrCode) : (endFatal c s).port = none := rfl
@[simp] theorem endFatal_env (c : ErrCode) : (endFatal c s).env = s.env := rfl
@[simp] theorem endFatal_trace (c : ErrCode) : (endFatal c s).trace = s.trace := rfl

/-! ### endRecoverable -/

@[simp] theorem endRecoverable_mode (c : ErrCode) : (endRecoverable c s).mode = .idle := rfl
@[simp] theorem endRecoverable_cmd (c : ErrCode) : (endRecoverable c s).cmd = s.cmd := rfl
@[simp] theorem endRecoverable_op (c : ErrCode) : (endRecoverable c s).op = s.op := rfl
@[simp] theorem endRecoverable_res (c : ErrCode) : (endRecoverable c s).res = s.res := rfl
@[simp] theorem endRecoverable_done (c : ErrCode) : (endRecoverable c s).done = true := rfl
@[simp] theorem endRecoverable_fail (c : ErrCode) : (endRecoverable c s).fail = true := rfl
@[simp] theorem endRecoverable_err (c : ErrCode) : (endRecoverable c s).err = c := rfl
@[simp] theorem endRecoverable_rvalid (c : ErrCode) : (endRecoverable c s).rvalid = s.rvalid := rfl
@[simp] theorem endRecoverable_work (c : ErrCode) : (endRecoverable c s).work = Work.zero := rfl
@[simp] theorem endRecoverable_port (c : ErrCode) : (endRecoverable c s).port = none := rfl
@[simp] theorem endRecoverable_env (c : ErrCode) : (endRecoverable c s).env = s.env := rfl
@[simp] theorem endRecoverable_trace (c : ErrCode) : (endRecoverable c s).trace = s.trace := rfl

/-! ### hostRead -/

@[simp] theorem hostRead_mode (i : Fin 16) : (hostRead i s).mode = s.mode := rfl
@[simp] theorem hostRead_cmd (i : Fin 16) : (hostRead i s).cmd = s.cmd := rfl
@[simp] theorem hostRead_op (i : Fin 16) : (hostRead i s).op = s.op := rfl
@[simp] theorem hostRead_res (i : Fin 16) : (hostRead i s).res = s.res := rfl
@[simp] theorem hostRead_done (i : Fin 16) : (hostRead i s).done = s.done := rfl
@[simp] theorem hostRead_fail (i : Fin 16) : (hostRead i s).fail = s.fail := rfl
@[simp] theorem hostRead_err (i : Fin 16) : (hostRead i s).err = s.err := rfl
@[simp] theorem hostRead_rvalid (i : Fin 16) : (hostRead i s).rvalid = s.rvalid := rfl
@[simp] theorem hostRead_work (i : Fin 16) : (hostRead i s).work = s.work := rfl
@[simp] theorem hostRead_port (i : Fin 16) : (hostRead i s).port = s.port := rfl
@[simp] theorem hostRead_env (i : Fin 16) : (hostRead i s).env = s.env := rfl
@[simp] theorem hostRead_trace (i : Fin 16) : (hostRead i s).trace = .read i (hostReadValue i s) :: s.trace := rfl

/-! ### present -/

@[simp] theorem present_mode (lo hi : Word) (g : Stage) : (present lo hi g s).mode = .busy g := rfl
@[simp] theorem present_cmd (lo hi : Word) (g : Stage) : (present lo hi g s).cmd = s.cmd := rfl
@[simp] theorem present_op (lo hi : Word) (g : Stage) : (present lo hi g s).op = s.op := rfl
@[simp] theorem present_res (lo hi : Word) (g : Stage) : (present lo hi g s).res = s.res := rfl
@[simp] theorem present_done (lo hi : Word) (g : Stage) : (present lo hi g s).done = s.done := rfl
@[simp] theorem present_fail (lo hi : Word) (g : Stage) : (present lo hi g s).fail = s.fail := rfl
@[simp] theorem present_err (lo hi : Word) (g : Stage) : (present lo hi g s).err = s.err := rfl
@[simp] theorem present_rvalid (lo hi : Word) (g : Stage) : (present lo hi g s).rvalid = s.rvalid := rfl
@[simp] theorem present_work (lo hi : Word) (g : Stage) : (present lo hi g s).work = s.work := rfl
@[simp] theorem present_port (lo hi : Word) (g : Stage) : (present lo hi g s).port = some ⟨lo, hi⟩ := rfl
@[simp] theorem present_env (lo hi : Word) (g : Stage) : (present lo hi g s).env = s.env := rfl
@[simp] theorem present_trace (lo hi : Word) (g : Stage) : (present lo hi g s).trace = .request lo hi :: s.trace := rfl

/-! ### takeFromPort -/

@[simp] theorem takeFromPort_mode (v : Word) : (takeFromPort v s).mode = s.mode := rfl
@[simp] theorem takeFromPort_cmd (v : Word) : (takeFromPort v s).cmd = s.cmd := rfl
@[simp] theorem takeFromPort_op (v : Word) : (takeFromPort v s).op = s.op := rfl
@[simp] theorem takeFromPort_res (v : Word) : (takeFromPort v s).res = s.res := rfl
@[simp] theorem takeFromPort_done (v : Word) : (takeFromPort v s).done = s.done := rfl
@[simp] theorem takeFromPort_fail (v : Word) : (takeFromPort v s).fail = s.fail := rfl
@[simp] theorem takeFromPort_err (v : Word) : (takeFromPort v s).err = s.err := rfl
@[simp] theorem takeFromPort_rvalid (v : Word) : (takeFromPort v s).rvalid = s.rvalid := rfl
@[simp] theorem takeFromPort_work (v : Word) : (takeFromPort v s).work = s.work := rfl
@[simp] theorem takeFromPort_port (v : Word) : (takeFromPort v s).port = none := rfl
@[simp] theorem takeFromPort_env (v : Word) : (takeFromPort v s).env = s.env := rfl
@[simp] theorem takeFromPort_trace (v : Word) : (takeFromPort v s).trace = .answered v :: s.trace := rfl

/-! ### withWork -/

@[simp] theorem withWork_mode (w : Work) : (s.withWork w).mode = s.mode := rfl
@[simp] theorem withWork_cmd (w : Work) : (s.withWork w).cmd = s.cmd := rfl
@[simp] theorem withWork_op (w : Work) : (s.withWork w).op = s.op := rfl
@[simp] theorem withWork_res (w : Work) : (s.withWork w).res = s.res := rfl
@[simp] theorem withWork_done (w : Work) : (s.withWork w).done = s.done := rfl
@[simp] theorem withWork_fail (w : Work) : (s.withWork w).fail = s.fail := rfl
@[simp] theorem withWork_err (w : Work) : (s.withWork w).err = s.err := rfl
@[simp] theorem withWork_rvalid (w : Work) : (s.withWork w).rvalid = s.rvalid := rfl
@[simp] theorem withWork_work (w : Work) : (s.withWork w).work = w := rfl
@[simp] theorem withWork_port (w : Work) : (s.withWork w).port = s.port := rfl
@[simp] theorem withWork_env (w : Work) : (s.withWork w).env = s.env := rfl
@[simp] theorem withWork_trace (w : Work) : (s.withWork w).trace = s.trace := rfl

/-! ### withKg -/

@[simp] theorem withKg_mode (k : KgRegs) : (s.withKg k).mode = s.mode := rfl
@[simp] theorem withKg_cmd (k : KgRegs) : (s.withKg k).cmd = s.cmd := rfl
@[simp] theorem withKg_op (k : KgRegs) : (s.withKg k).op = s.op := rfl
@[simp] theorem withKg_res (k : KgRegs) : (s.withKg k).res = s.res := rfl
@[simp] theorem withKg_done (k : KgRegs) : (s.withKg k).done = s.done := rfl
@[simp] theorem withKg_fail (k : KgRegs) : (s.withKg k).fail = s.fail := rfl
@[simp] theorem withKg_err (k : KgRegs) : (s.withKg k).err = s.err := rfl
@[simp] theorem withKg_rvalid (k : KgRegs) : (s.withKg k).rvalid = s.rvalid := rfl
@[simp] theorem withKg_work (k : KgRegs) : (s.withKg k).work = { s.work with kg := k } := rfl
@[simp] theorem withKg_port (k : KgRegs) : (s.withKg k).port = s.port := rfl
@[simp] theorem withKg_env (k : KgRegs) : (s.withKg k).env = s.env := rfl
@[simp] theorem withKg_trace (k : KgRegs) : (s.withKg k).trace = s.trace := rfl

/-! ### withAlu -/

@[simp] theorem withAlu_mode (u : Alu) : (s.withAlu u).mode = s.mode := rfl
@[simp] theorem withAlu_cmd (u : Alu) : (s.withAlu u).cmd = s.cmd := rfl
@[simp] theorem withAlu_op (u : Alu) : (s.withAlu u).op = s.op := rfl
@[simp] theorem withAlu_res (u : Alu) : (s.withAlu u).res = s.res := rfl
@[simp] theorem withAlu_done (u : Alu) : (s.withAlu u).done = s.done := rfl
@[simp] theorem withAlu_fail (u : Alu) : (s.withAlu u).fail = s.fail := rfl
@[simp] theorem withAlu_err (u : Alu) : (s.withAlu u).err = s.err := rfl
@[simp] theorem withAlu_rvalid (u : Alu) : (s.withAlu u).rvalid = s.rvalid := rfl
@[simp] theorem withAlu_work (u : Alu) : (s.withAlu u).work = { s.work with alu := u } := rfl
@[simp] theorem withAlu_port (u : Alu) : (s.withAlu u).port = s.port := rfl
@[simp] theorem withAlu_env (u : Alu) : (s.withAlu u).env = s.env := rfl
@[simp] theorem withAlu_trace (u : Alu) : (s.withAlu u).trace = s.trace := rfl

/-! ### resetBlock -/

@[simp] theorem resetBlock_mode : (resetBlock s).mode = State.reset.mode := rfl
@[simp] theorem resetBlock_cmd : (resetBlock s).cmd = State.reset.cmd := rfl
@[simp] theorem resetBlock_op : (resetBlock s).op = State.reset.op := rfl
@[simp] theorem resetBlock_res : (resetBlock s).res = State.reset.res := rfl
@[simp] theorem resetBlock_done : (resetBlock s).done = State.reset.done := rfl
@[simp] theorem resetBlock_fail : (resetBlock s).fail = State.reset.fail := rfl
@[simp] theorem resetBlock_err : (resetBlock s).err = State.reset.err := rfl
@[simp] theorem resetBlock_rvalid : (resetBlock s).rvalid = State.reset.rvalid := rfl
@[simp] theorem resetBlock_work : (resetBlock s).work = State.reset.work := rfl
@[simp] theorem resetBlock_port : (resetBlock s).port = State.reset.port := rfl
@[simp] theorem resetBlock_env : (resetBlock s).env = s.env := rfl
@[simp] theorem resetBlock_trace : (resetBlock s).trace = s.trace := rfl

/-! ### The operand names -/

@[simp] theorem operand0_eq : s.operand0 = s.op.o0 := rfl
@[simp] theorem operand1_eq : s.operand1 = s.op.o1 := rfl
@[simp] theorem operand2_eq : s.operand2 = s.op.o2 := rfl

end Sys2Proof.Machine
end

