-- ==== Sys2Proof/Laws/Ops.lean ====
section
/-!
SUPPORT. What each shared operation can do, said once: reading and writing the register space, taking an error, presenting a
request, and running a command over the answers of the random source.
-/
namespace Sys2Proof.Machine

/-! ### Host accesses -/

/-- A host write outside `IDLE` is ignored (R65). -/
theorem hostWrite_of_not_idle (i : Fin 16) (v : Word) (s : State) (h : s.mode ≠ .idle) : hostWrite i v s = s := by
  unfold hostWrite
  split <;> simp_all

/-- A host write in `IDLE` (R65). -/
theorem hostWrite_of_idle (i : Fin 16) (v : Word) (s : State) (h : s.mode = .idle) :
    hostWrite i v s = writeIdle i v s := by
  unfold hostWrite
  simp [h]

/-- Everything a host write can do: accept a command, store an operand, or nothing. -/
theorem hostWrite_cases (i : Fin 16) (v : Word) (s : State) :
    (s.mode = .idle ∧ i = 0 ∧ hostWrite i v s = accept v s) ∨
      (s.mode = .idle ∧ ∃ o : OpRegs, hostWrite i v s = { s with op := o }) ∨ hostWrite i v s = s := by
  by_cases h : s.mode = .idle
  · rw [hostWrite_of_idle i v s h]
    unfold writeIdle
    split
    · exact .inl ⟨h, by apply Fin.ext; simpa using ‹i.val = 0›, rfl⟩
    · exact .inr (.inl ⟨h, _, rfl⟩)
    · exact .inr (.inl ⟨h, _, rfl⟩)
    · exact .inr (.inl ⟨h, _, rfl⟩)
    · exact .inr (.inr rfl)
  · exact .inr (.inr (hostWrite_of_not_idle i v s h))

/-- A read of an unmapped index returns zero (R60, R63). -/
theorem regRead_unmapped (s : State) : ∀ i : Fin 16, i ∈ ([5, 6, 7, 13, 14, 15] : List (Fin 16)) → regRead i s = 0 := by
  intro i h
  fin_cases h <;> rfl

/-- Wherever the spec specifies the block, a host read returns the register (R60). -/
theorem hostReadValue_of_specified (i : Fin 16) (s : State) (h : s.mode ≠ .busy .unspecified) :
    hostReadValue i s = regRead i s := if_neg h

/-! ### Taking an error -/

/-- Taking an error is the fatal end or, for exhaustion alone, the recoverable end (R251). -/
theorem raiseError_eq (c : ErrCode) (s : State) :
    raiseError c s = if c = .retryExhausted then endRecoverable c s else endFatal c s := by
  cases c <;> rfl

/-- An error writes no result (R242) and changes neither `CMD` nor an operand. -/
theorem raiseError_frame (c : ErrCode) (s : State) :
    (raiseError c s).res = s.res ∧ (raiseError c s).rvalid = s.rvalid ∧ (raiseError c s).cmd = s.cmd ∧
      (raiseError c s).op = s.op ∧ (raiseError c s).env = s.env ∧ (raiseError c s).trace = s.trace := by
  cases c <;> exact ⟨rfl, rfl, rfl, rfl, rfl, rfl⟩

/-- Every end puts the working registers at zero and leaves no request outstanding (R242). -/
theorem raiseError_settles (c : ErrCode) (s : State) :
    (raiseError c s).done = true ∧ (raiseError c s).work = Work.zero ∧ (raiseError c s).port = none := by
  cases c <;> exact ⟨rfl, rfl, rfl⟩

/-- The working registers do not matter to a success end. -/
theorem endSuccess_withWork (r : ResRegs) (rv : BitVec 5) (s : State) (w : Work) :
    endSuccess r rv (s.withWork w) = endSuccess r rv s := rfl

/-! ### Running over the answers -/

/-- A block with no outstanding request takes no answer. -/
theorem drain_of_port_none (par : Config.Params) (l : List EnvEvent) (s : State) (h : s.port = none) :
    drain par l s = .next { s with env := l } := by
  cases l with
  | nil => rfl
  | cons ev rest =>
    unfold drain
    cases ev <;> simp [h]

/-- An answer that stands next is taken by the outstanding request. -/
theorem drain_answer (par : Config.Params) (v : Word) (rest : List EnvEvent) (s : State) (r : Request)
    (h : s.port = some r) :
    drain par (.answer v :: rest) s = goOn (takeAnswer par v s) (drain par rest) := by
  conv_lhs => unfold drain
  rw [h]

/-- Where no answer stands next, the block waits. -/
theorem drain_stops (par : Config.Params) (l : List EnvEvent) (s : State) (h : ∀ v rest, l ≠ .answer v :: rest) :
    drain par l s = .next { s with env := l } := by
  cases l with
  | nil => rfl
  | cons ev rest =>
    unfold drain
    cases ev <;> first | rfl | exact absurd rfl (h _ _)

/-- The running of a command over its answers, packaged once: what `takeAnswer` keeps of a waiting block, and what does not
speak of the list `env`, holds of the state a command is left in. -/
theorem drain_keeps (par : Config.Params) (P : State → Prop)
    (henv : ∀ s l, P s → P { s with env := l })
    (hstep : ∀ s v r s', P s → s.port = some r → takeAnswer par v s = .next s' → P s') :
    ∀ (l : List EnvEvent) (s t : State), P s → drain par l s = .next t → P t := by
  intro l
  induction l with
  | nil =>
    intro s t hs h
    have h' : t = { s with env := [] } := by simpa [drain] using h.symm
    exact h' ▸ henv s [] hs
  | cons ev rest ih =>
    intro s t hs h
    cases hp : s.port with
    | none =>
      rw [drain_of_port_none par _ s hp] at h
      cases h
      exact henv s _ hs
    | some r =>
      cases ev with
      | answer v =>
        rw [drain_answer par v rest s r hp] at h
        cases hk : takeAnswer par v s with
        | next s' => rw [hk] at h; exact ih s' t (hstep s v r s' hs hp hk) h
        | fault f => rw [hk] at h; cases h
        | refused x => rw [hk] at h; cases h
      | read i => rw [drain_stops par _ s (by simp)] at h; cases h; exact henv s _ hs
      | write i v => rw [drain_stops par _ s (by simp)] at h; cases h; exact henv s _ hs
      | answerReset v => rw [drain_stops par _ s (by simp)] at h; cases h; exact henv s _ hs
      | reset => rw [drain_stops par _ s (by simp)] at h; cases h; exact henv s _ hs
      | run => rw [drain_stops par _ s (by simp)] at h; cases h; exact henv s _ hs

/-- `Reject()` ends in the recoverable class or retries with one more rejection counted (R217). -/
theorem reject_cases (par : Config.Params) (retry : State → State) (s : State) :
    reject par retry s = raiseError .retryExhausted (s.withKg { s.work.kg with attempts := s.work.kg.attempts + 1 }) ∨
      reject par retry s = retry (s.withKg { s.work.kg with attempts := s.work.kg.attempts + 1 }) := by
  by_cases h : par.retryLimit ≠ 0 ∧ par.retryLimit.toNat ≤ s.work.kg.attempts + 1
  · exact .inl (if_pos h)
  · exact .inr (if_neg h)

end Sys2Proof.Machine
end

