-- ==== Sys2Proof/Laws/Primality.lean ====
section
/-!
SUPPORT. What the primality unit does to its registers and to its verdict, said once per function: its rounds accept exactly
when the function of R193 does, and it keeps the candidate, the decomposition, the planned rounds and the orchestrator's
registers.
-/
namespace Sys2Proof.Machine

/-- What the rounds of one test leave alone: the candidate, its decomposition, the planned rounds, and `KEYGEN`'s
registers. -/
structure SameTest (w w' : Work) : Prop where
  n : w'.mr.n = w.mr.n
  d : w'.mr.d = w.mr.d
  s : w'.mr.s = w.mr.s
  rounds : w'.mr.rounds = w.mr.rounds
  kg : w'.kg = w.kg

theorem SameTest.refl (w : Work) : SameTest w w := ⟨rfl, rfl, rfl, rfl, rfl⟩

theorem SameTest.trans {w₁ w₂ w₃ : Work} (h : SameTest w₁ w₂) (h' : SameTest w₂ w₃) : SameTest w₁ w₃ :=
  ⟨h'.n.trans h.n, h'.d.trans h.d, h'.s.trans h.s, h'.rounds.trans h.rounds, h'.kg.trans h.kg⟩

theorem sameTest_mrSquare (w : Work) : SameTest w (mrSquare w) := ⟨rfl, rfl, rfl, rfl, rfl⟩

theorem sameTest_mrCount (w : Work) : SameTest w (mrCount w) := ⟨rfl, rfl, rfl, rfl, rfl⟩

theorem sameTest_mrPow (a : Word) (w : Work) : SameTest w (mrPow a w) := ⟨rfl, rfl, rfl, rfl, rfl⟩

theorem sameTest_mrNext (w : Work) : SameTest w (mrNext w) := ⟨rfl, rfl, rfl, rfl, rfl⟩

/-- The comparisons accept exactly when one of the values does (R193), and keep the test and the round number. -/
theorem mrCmp_spec (left : Nat) (w : Work) :
    (mrCmp left w).1 = roundCmp w.mr.n left w.mr.x ∧ SameTest w (mrCmp left w).2 ∧ (mrCmp left w).2.mr.k = w.mr.k := by
  induction left generalizing w with
  | zero => exact ⟨rfl, SameTest.refl w, rfl⟩
  | succ left ih =>
    unfold mrCmp roundCmp
    by_cases hx : w.mr.x = w.mr.n - 1
    · simp only [hx, if_true]
      exact ⟨trivial, SameTest.refl w, trivial⟩
    · simp only [hx, if_false]
      by_cases hl : left = 0
      · subst hl
        exact ⟨rfl, sameTest_mrCount w, rfl⟩
      · simp only [hl, if_false]
        obtain ⟨h1, h2, h3⟩ := ih (mrCount (mrSquare w))
        exact ⟨h1, ((sameTest_mrSquare w).trans (sameTest_mrCount _)).trans h2, h3⟩

/-- The registers of the unit hold the decomposition of R191 for the candidate. -/
def DecomposedIn (w : Work) : Prop :=
  w.mr.d = (decompose 64 (w.mr.n - 1) 0).1 ∧ w.mr.s = (decompose 64 (w.mr.n - 1) 0).2

theorem DecomposedIn.of_sameTest {w w' : Work} (h : SameTest w w') (hw : DecomposedIn w) : DecomposedIn w' := by
  unfold DecomposedIn
  rw [h.n, h.d, h.s]
  exact hw

/-- One round accepts exactly when the function of R193 does, and keeps the test and the round number. -/
theorem mrRound_spec (a : Word) (w : Work) (hw : DecomposedIn w) :
    (mrRound a w).1 = roundAccepts w.mr.n a ∧ SameTest w (mrRound a w).2 ∧ (mrRound a w).2.mr.k = w.mr.k := by
  have hx : (mrPow a w).mr.x = powMod a (decompose 64 (w.mr.n - 1) 0).1 w.mr.n := by rw [← hw.1]; rfl
  unfold mrRound
  by_cases h1 : (mrPow a w).mr.x = 1
  · rw [if_pos h1]
    refine ⟨?_, sameTest_mrPow a w, rfl⟩
    rw [hx] at h1
    exact (if_pos h1).symm
  · rw [if_neg h1]
    obtain ⟨g1, g2, g3⟩ := mrCmp_spec w.mr.s.toNat (mrPow a w)
    refine ⟨?_, (sameTest_mrPow a w).trans g2, g3⟩
    rw [g1, hx, hw.2]
    rw [hx] at h1
    exact (if_neg h1).symm

/-- After `mrLoad` the registers hold the decomposition, the planned rounds and round number 0. -/
theorem mrLoad_spec (n rep : Word) (w : Work) :
    DecomposedIn (mrLoad n rep w) ∧ (mrLoad n rep w).mr.n = n ∧ (mrLoad n rep w).mr.rounds = roundsOf rep ∧
      (mrLoad n rep w).mr.k = 0 ∧ (mrLoad n rep w).kg = w.kg :=
  ⟨⟨rfl, rfl⟩, rfl, rfl, rfl, rfl⟩

/-- The rounds of a list of fixed bases (R194, R195): true as soon as one accepts; else all have been counted, and the
next base is drawn or the verdict is false. -/
theorem mrFixed_spec (bases : List Word) (w : Work) (hw : DecomposedIn w) :
    SameTest w (mrFixed bases w).2 ∧
      (bases.any (roundAccepts w.mr.n) = true → (mrFixed bases w).1 = .yes) ∧
      (bases.any (roundAccepts w.mr.n) = false →
        (mrFixed bases w).2.mr.k = w.mr.k + bases.length ∧
          (mrFixed bases w).1 = if w.mr.k + bases.length < w.mr.rounds.toNat then .draw else .no) := by
  induction bases generalizing w with
  | nil => exact ⟨SameTest.refl w, by simp, fun _ => ⟨rfl, rfl⟩⟩
  | cons a bases ih =>
    obtain ⟨h1, h2, h3⟩ := mrRound_spec a w hw
    unfold mrFixed
    by_cases ha : roundAccepts w.mr.n a = true
    · rw [h1, if_pos ha]
      exact ⟨h2, fun _ => rfl, by simp [ha]⟩
    · have hs : SameTest w (mrNext (mrRound a w).2) := h2.trans (sameTest_mrNext _)
      obtain ⟨g1, g2, g3⟩ := ih _ (hw.of_sameTest hs)
      have hk : (mrNext (mrRound a w).2).mr.k = w.mr.k + 1 := congrArg (· + 1) h3
      rw [hs.n] at g2 g3
      rw [hk, hs.rounds] at g3
      rw [h1, if_neg ha]
      refine ⟨hs.trans g1, fun h => g2 ?_, fun h => ?_⟩
      · simpa [ha] using h
      · have := g3 (by simpa [ha] using h)
        rw [List.length_cons, show w.mr.k + (bases.length + 1) = w.mr.k + 1 + bases.length by omega]
        exact this

/-- The round of a drawn base (R195). -/
theorem mrDrawn_spec (v : Word) (w : Work) (hw : DecomposedIn w) :
    SameTest w (mrDrawn v w).2 ∧ (roundAccepts w.mr.n v = true → (mrDrawn v w).1 = .yes) ∧
      (roundAccepts w.mr.n v = false →
        (mrDrawn v w).2.mr.k = w.mr.k + 1 ∧
          (mrDrawn v w).1 = if w.mr.k + 1 < w.mr.rounds.toNat then .draw else .no) := by
  obtain ⟨h1, h2, h3⟩ := mrRound_spec v w hw
  unfold mrDrawn
  by_cases ha : roundAccepts w.mr.n v = true
  · rw [h1, if_pos ha]
    exact ⟨h2, fun _ => rfl, by simp [ha]⟩
  · have hk : (mrNext (mrRound v w).2).mr.k = w.mr.k + 1 := congrArg (· + 1) h3
    rw [h1, if_neg ha]
    refine ⟨h2.trans (sameTest_mrNext _), fun h => absurd h ha, fun _ => ⟨hk, ?_⟩⟩
    unfold mrMore
    rw [hk, ((h2.trans (sameTest_mrNext _)).rounds)]

end Sys2Proof.Machine
end

