-- ==== Sys2Proof/Laws/Draw.lean ====
section
/-!
SUPPORT. What a drawing command can do between two draws, said once. Every function of the sequencer works on `work` alone
until it presents the next request, ends the command, or (outside the source's contract) never comes back: `IsprimeStep` and
`KeygenStep` list those outcomes, and `takeAnswer_cases` says that there is no other. `takeAnswer_withEnv` and
`drain_withEnv` say that none of it looks at the list `env`.
-/
namespace Sys2Proof.Machine

/-- `t` is where `ISPRIME` is after the sequencer has worked from `s` on the registers `w`: ended with its verdict, or
waiting for a base. -/
def IsprimeStep (s : State) (w : Work) (t : State) : Prop :=
  t = endSuccess (s.res.set0 1) 0b00001 (s.withWork w) ∨ t = endSuccess (s.res.set0 0) 0b00001 (s.withWork w) ∨
    t = presentBase .isPrimeWait (s.withWork w)

/-- `t` is where `KEYGEN` is after the sequencer has worked from `s` on the registers `w`: ended with its tuple, ended at
its bound, waiting in one of its five waiting states, or (outside the contract) halving for ever or without a specified
behaviour. -/
def KeygenStep (s : State) (w : Work) (t : State) : Prop :=
  t = endSuccess ⟨w.kg.p, w.kg.q, w.kg.e, w.kg.d, w.kg.n⟩ 0b11111 (s.withWork w) ∨
    t = endRecoverable .retryExhausted (s.withWork w) ∨ t = drawP (s.withWork w) ∨
    t = presentBase .testPWait (s.withWork w) ∨ t = drawQ (s.withWork w) ∨ t = presentBase .testQWait (s.withWork w) ∨
    t = drawE (s.withWork w) ∨ t = decomposeForever (s.withWork w) ∨ t = divideByZero (s.withWork w)

/-- The stages in which `KEYGEN` waits (R220). -/
def keygenStage (g : Stage) : Bool :=
  match g with
  | .drawP => true
  | .testPWait => true
  | .drawQ => true
  | .testQWait => true
  | .drawE => true
  | .accepted => false
  | .isPrimeWait => false
  | .decomposing => false
  | .unspecified => false

/-- A division by zero changes the stage and nothing else. -/
theorem divideByZero_frame (s : State) :
    (divideByZero s).mode = .busy .unspecified ∧ (divideByZero s).cmd = s.cmd ∧ (divideByZero s).op = s.op ∧
      (divideByZero s).res = s.res ∧ (divideByZero s).done = s.done ∧ (divideByZero s).fail = s.fail ∧
      (divideByZero s).err = s.err ∧ (divideByZero s).rvalid = s.rvalid ∧ (divideByZero s).work = s.work ∧
      (divideByZero s).port = s.port ∧ (divideByZero s).env = s.env ∧ (divideByZero s).trace = s.trace :=
  ⟨rfl, rfl, rfl, rfl, rfl, rfl, rfl, rfl, rfl, rfl, rfl, rfl⟩

theorem isprimeFrom_step (v : Verdict) (s : State) (w : Work) : IsprimeStep s w (isprimeFrom v (s.withWork w)) := by
  cases v
  · exact .inl rfl
  · exact .inr (.inl rfl)
  · exact .inr (.inr rfl)

/-- A rejection (R217) ends `KEYGEN` at its bound or leads to the retry. -/
theorem reject_step (par : Config.Params) (s : State) (w : Work) :
    (∃ w', KeygenStep s w' (reject par drawP (s.withWork w))) ∧ (∃ w', KeygenStep s w' (reject par drawQ (s.withWork w))) ∧
      ∃ w', KeygenStep s w' (reject par drawE (s.withWork w)) := by
  refine ⟨?_, ?_, ?_⟩
  · rcases reject_cases par drawP (s.withWork w) with h | h
    · exact ⟨_, .inr (.inl h)⟩
    · exact ⟨_, .inr (.inr (.inl h))⟩
  · rcases reject_cases par drawQ (s.withWork w) with h | h
    · exact ⟨_, .inr (.inl h)⟩
    · exact ⟨_, .inr (.inr (.inr (.inr (.inl h))))⟩
  · rcases reject_cases par drawE (s.withWork w) with h | h
    · exact ⟨_, .inr (.inl h)⟩
    · exact ⟨_, .inr (.inr (.inr (.inr (.inr (.inr (.inl h))))))⟩

theorem afterTestP_step (par : Config.Params) (v : Verdict) (s : State) (w : Work) :
    ∃ w', KeygenStep s w' (afterTestP par v (s.withWork w)) := by
  cases v
  · exact ⟨w, .inr (.inr (.inr (.inr (.inl rfl))))⟩
  · exact (reject_step par s w).1
  · exact ⟨w, .inr (.inr (.inr (.inl rfl)))⟩

theorem afterTestQ_step (par : Config.Params) (v : Verdict) (s : State) (w : Work) :
    ∃ w', KeygenStep s w' (afterTestQ par v (s.withWork w)) := by
  cases v
  · by_cases h : w.kg.q = w.kg.p
    · rw [show afterTestQ par .yes (s.withWork w) = reject par drawQ (s.withWork w) from if_pos h]
      exact (reject_step par s w).2.1
    · rw [show afterTestQ par .yes (s.withWork w) = productStep (s.withWork w) from if_neg h]
      exact ⟨_, .inr (.inr (.inr (.inr (.inr (.inr (.inl rfl))))))⟩
  · exact (reject_step par s w).2.1
  · exact ⟨w, .inr (.inr (.inr (.inr (.inr (.inl rfl)))))⟩

theorem testCandidate_step (par : Config.Params) (c : Word) (after : Verdict → State → State) (s t : State) (w : Work)
    (hafter : ∀ v w, ∃ w', KeygenStep s w' (after v (s.withWork w)))
    (h : testCandidate par c after (s.withWork w) = .next t) : ∃ w', KeygenStep s w' t := by
  unfold testCandidate at h
  split at h
  · cases h
    exact ⟨w, .inr (.inr (.inr (.inr (.inr (.inr (.inr (.inr rfl)))))))⟩
  · split at h
    · cases h
      exact ⟨w, .inr (.inr (.inr (.inr (.inr (.inr (.inr (.inl rfl)))))))⟩
    · cases h
      exact hafter _ _

theorem verifyStep_step (par : Config.Params) (s t : State) (w : Work)
    (h : verifyStep par (s.withWork w) = .next t) : ∃ w', KeygenStep s w' t := by
  unfold verifyStep at h
  simp only at h
  split at h
  · cases h
    exact ⟨w, .inr (.inr (.inr (.inr (.inr (.inr (.inr (.inr rfl)))))))⟩
  · split at h
    · cases h
      exact ⟨w, .inl rfl⟩
    · cases h
      exact (reject_step par s _).1

theorem eAnswer_step (par : Config.Params) (v : Word) (s t : State) (w : Work)
    (h : eAnswer par v (s.withWork w) = .next t) : ∃ w', KeygenStep s w' t := by
  unfold eAnswer at h
  simp only at h
  split at h
  · exact verifyStep_step par s t _ h
  · cases h
    exact (reject_step par s _).2.2

/-- Everything the block can do with an answer, `s` being the block as it takes it: in `T_WAIT` of `ISPRIME` and in the
waiting states of `KEYGEN` the command goes on; in every other mode the answer is dropped. -/
theorem takeAnswer_cases (par : Config.Params) (v : Word) (s t : State) (h : takeAnswer par v s = .next t) :
    (s.mode = .busy .isPrimeWait ∧ ∃ w, IsprimeStep (takeFromPort v s) w t) ∨
      (∃ g, s.mode = .busy g ∧ keygenStage g = true ∧ ∃ w, KeygenStep (takeFromPort v s) w t) ∨
      ((∀ g, s.mode = .busy g → g ≠ .isPrimeWait ∧ keygenStage g = false) ∧ t = takeFromPort v s) := by
  unfold takeAnswer at h
  split at h
  case h_1 hm =>
    cases h
    exact .inl ⟨hm, _, isprimeFrom_step _ _ _⟩
  case h_2 hm =>
    exact .inr (.inl ⟨_, hm, rfl, testCandidate_step par v _ _ t _ (fun u w => afterTestP_step par u _ w) h⟩)
  case h_3 hm =>
    cases h
    exact .inr (.inl ⟨_, hm, rfl, afterTestP_step par _ _ _⟩)
  case h_4 hm =>
    exact .inr (.inl ⟨_, hm, rfl, testCandidate_step par v _ _ t _ (fun u w => afterTestQ_step par u _ w) h⟩)
  case h_5 hm =>
    cases h
    exact .inr (.inl ⟨_, hm, rfl, afterTestQ_step par _ _ _⟩)
  case h_6 hm => exact .inr (.inl ⟨_, hm, rfl, eAnswer_step par v _ t _ h⟩)
  all_goals
    cases h
    refine .inr (.inr ⟨fun g hg => ?_, rfl⟩)
    simp_all [keygenStage]

/-! ### The list `env` -/

/-- The same answer with another list of outside events to come. -/
def Result.withEnv (r : Result) (l : List EnvEvent) : Result := goOn r fun t => .next { t with env := l }

/-- A function of the sequencer does not look at the list `env` and carries it along. -/
def EnvBlind (f : State → State) : Prop := ∀ s l, f { s with env := l } = { f s with env := l }

theorem reject_envBlind (par : Config.Params) (retry : State → State) (h : EnvBlind retry) :
    EnvBlind (reject par retry) := by
  intro s l
  have hr := h (s.withKg { s.work.kg with attempts := s.work.kg.attempts + 1 }) l
  by_cases hb : par.retryLimit ≠ 0 ∧ par.retryLimit.toNat ≤ s.work.kg.attempts + 1
  · rw [reject, reject, if_pos hb, if_pos hb]; rfl
  · rw [reject, reject, if_neg hb, if_neg hb]; exact hr

theorem isprimeFrom_envBlind (v : Verdict) : EnvBlind (isprimeFrom v) := fun _ _ => by cases v <;> rfl

theorem afterTestP_envBlind (par : Config.Params) (v : Verdict) : EnvBlind (afterTestP par v) := by
  intro s l
  cases v
  · rfl
  · exact reject_envBlind par drawP (fun _ _ => rfl) s l
  · rfl

theorem afterTestQ_envBlind (par : Config.Params) (v : Verdict) : EnvBlind (afterTestQ par v) := by
  intro s l
  cases v
  · by_cases h : s.work.kg.q = s.work.kg.p
    · rw [afterTestQ, afterTestQ, if_pos h, if_pos h]
      exact reject_envBlind par drawQ (fun _ _ => rfl) s l
    · rw [afterTestQ, afterTestQ, if_neg h, if_neg h]; rfl
  · exact reject_envBlind par drawQ (fun _ _ => rfl) s l
  · rfl

theorem testCandidate_withEnv (par : Config.Params) (c : Word) (after : Verdict → State → State)
    (h : ∀ v, EnvBlind (after v)) (s : State) (l : List EnvEvent) :
    testCandidate par c after { s with env := l } = (testCandidate par c after s).withEnv l := by
  have ha := h (mrBegin c par.kgRepeat s.work).1 (s.withWork (mrBegin c par.kgRepeat s.work).2) l
  by_cases h0 : c = 0
  · rw [testCandidate, testCandidate, if_pos h0, if_pos h0]; rfl
  · by_cases h1 : c = 1
    · rw [testCandidate, testCandidate, if_neg h0, if_neg h0, if_pos h1, if_pos h1]; rfl
    · rw [testCandidate, testCandidate, if_neg h0, if_neg h0, if_neg h1, if_neg h1]
      exact congrArg Host.Outcome.next ha

theorem verifyStep_withEnv (par : Config.Params) (s : State) (l : List EnvEvent) :
    verifyStep par { s with env := l } = (verifyStep par s).withEnv l := by
  have hr := reject_envBlind par drawP (fun _ _ => rfl)
    (s.withAlu (runMul s.work.kg.e s.work.kg.d s.work.kg.phi s.work.alu)) l
  by_cases h0 : s.work.kg.phi = 0
  · rw [verifyStep, verifyStep, if_pos h0, if_pos h0]; rfl
  · by_cases h1 : prodMod s.work.kg.e s.work.kg.d s.work.kg.phi = 1
    · rw [verifyStep, verifyStep, if_neg h0, if_neg h0, if_pos h1, if_pos h1]; rfl
    · rw [verifyStep, verifyStep, if_neg h0, if_neg h0, if_neg h1, if_neg h1]
      exact congrArg Host.Outcome.next hr

theorem eAnswer_withEnv (par : Config.Params) (v : Word) (s : State) (l : List EnvEvent) :
    eAnswer par v { s with env := l } = (eAnswer par v s).withEnv l := by
  have hv := verifyStep_withEnv par (invertStep ((s.withAlu (runEuclid s.work.kg.phi v s.work.alu)).withKg
    { s.work.kg with e := v })) l
  have hr := reject_envBlind par drawE (fun _ _ => rfl) ((s.withAlu (runEuclid s.work.kg.phi v s.work.alu)).withKg
    { s.work.kg with e := v }) l
  by_cases h1 : gcdOf s.work.kg.phi v = 1
  · rw [eAnswer, eAnswer, if_pos h1, if_pos h1]; exact hv
  · rw [eAnswer, eAnswer, if_neg h1, if_neg h1]; exact congrArg Host.Outcome.next hr

/-- What the block does with an answer does not depend on what the outside agents do after that. -/
theorem takeAnswer_withEnv (par : Config.Params) (v : Word) (s : State) (l : List EnvEvent) :
    takeAnswer par v { s with env := l } = (takeAnswer par v s).withEnv l := by
  have hp := testCandidate_withEnv par v (afterTestP par) (afterTestP_envBlind par)
    ((takeFromPort v s).withKg { s.work.kg with p := v }) l
  have hq := testCandidate_withEnv par v (afterTestQ par) (afterTestQ_envBlind par)
    ((takeFromPort v s).withKg { s.work.kg with q := v }) l
  have he := eAnswer_withEnv par v (takeFromPort v s) l
  have hi := isprimeFrom_envBlind (mrDrawn v s.work).1 ((takeFromPort v s).withWork (mrDrawn v s.work).2) l
  have hP := afterTestP_envBlind par (mrDrawn v s.work).1 ((takeFromPort v s).withWork (mrDrawn v s.work).2) l
  have hQ := afterTestQ_envBlind par (mrDrawn v s.work).1 ((takeFromPort v s).withWork (mrDrawn v s.work).2) l
  obtain ⟨mode, cmd, op, res, done, fail, err, rvalid, work, port, env, trace⟩ := s
  cases mode with
  | idle => rfl
  | halt => rfl
  | busy g =>
    cases g with
    | accepted => rfl
    | isPrimeWait => exact congrArg Host.Outcome.next hi
    | drawP => exact hp
    | testPWait => exact congrArg Host.Outcome.next hP
    | drawQ => exact hq
    | testQWait => exact congrArg Host.Outcome.next hQ
    | drawE => exact he
    | decomposing => rfl
    | unspecified => rfl

/-- Where no answer stands next, the list that stood in `env` before does not matter. -/
theorem drain_stops_withEnv (par : Config.Params) (l : List EnvEvent) (s : State) (x : List EnvEvent)
    (h : ∀ v rest, l ≠ .answer v :: rest) : drain par l { s with env := x } = drain par l s :=
  (drain_stops par l { s with env := x } h).trans (drain_stops par l s h).symm

/-- Running over the answers of a list does not depend on the list that stood in `env` before. -/
theorem drain_withEnv (par : Config.Params) (l : List EnvEvent) (s : State) (x : List EnvEvent) :
    drain par l { s with env := x } = drain par l s := by
  induction l generalizing s with
  | nil => rfl
  | cons ev rest ih =>
    by_cases hp : s.port = none
    · exact (drain_of_port_none par _ { s with env := x } hp).trans (drain_of_port_none par _ s hp).symm
    · obtain ⟨r, hp⟩ := Option.ne_none_iff_exists'.1 hp
      cases ev with
      | answer v =>
        refine (drain_answer par v rest { s with env := x } r hp).trans ?_
        rw [drain_answer par v rest s r hp, takeAnswer_withEnv]
        cases takeAnswer par v s with
        | next t => exact ih t
        | fault f => rfl
        | refused y => rfl
      | read i => exact drain_stops_withEnv par _ s x (by simp)
      | write i v => exact drain_stops_withEnv par _ s x (by simp)
      | reset => exact drain_stops_withEnv par _ s x (by simp)
      | answerReset v => exact drain_stops_withEnv par _ s x (by simp)
      | run => exact drain_stops_withEnv par _ s x (by simp)

end Sys2Proof.Machine
end

