-- ==== Sys2Proof/Laws/PerInstr.lean ====
section
/-!
SUPPORT. A family of statements with one lemma per command: the command's word is well formed and decodes to the command
(rules R90, R91, R95 of spec/30_encoding.md).
-/
namespace Sys2Proof.Laws.RoundTrip

/-- The command's one encoding is a legal word and decodes to the command. -/
def Statement (i : Instr) : Prop :=
  (encodeFields i).wellFormed = true ∧ decode (encode i) = .ok i

theorem mod : Statement .mod := ⟨rfl, rfl⟩
theorem quot : Statement .quot := ⟨rfl, rfl⟩
theorem modadd : Statement .modadd := ⟨rfl, rfl⟩
theorem modsub : Statement .modsub := ⟨rfl, rfl⟩
theorem modmul : Statement .modmul := ⟨rfl, rfl⟩
theorem modpow : Statement .modpow := ⟨rfl, rfl⟩
theorem egcd : Statement .egcd := ⟨rfl, rfl⟩
theorem gcd : Statement .gcd := ⟨rfl, rfl⟩
theorem modinv : Statement .modinv := ⟨rfl, rfl⟩
theorem isprime : Statement .isprime := ⟨rfl, rfl⟩
theorem keygen : Statement .keygen := ⟨rfl, rfl⟩
theorem rsaxf : Statement .rsaxf := ⟨rfl, rfl⟩
theorem clr : Statement .clr := ⟨rfl, rfl⟩

end Sys2Proof.Laws.RoundTrip
end

