-- ==== Sys2Proof/Laws/Values.lean ====
section
/-!
SUPPORT. The values the functions of Machine/Functions.lean compute, as natural numbers.
-/
namespace Sys2Proof.Machine

theorem toNat_pos_of_ne_zero {n : Word} (h : n ≠ 0) : 0 < n.toNat := by
  rcases Nat.eq_zero_or_pos n.toNat with h0 | h0
  · exact absurd (BitVec.eq_of_toNat_eq (by simpa using h0)) h
  · exact h0

/-- A residue is the remainder of natural numbers (R121). -/
theorem residue_toNat (v : Nat) {n : Word} (h : n ≠ 0) : (residue v n).toNat = v % n.toNat := by
  have hlt : v % n.toNat < 2 ^ 64 := lt_trans (Nat.mod_lt _ (toNat_pos_of_ne_zero h)) n.isLt
  simp only [residue, if_neg h, BitVec.toNat_ofNat]
  exact Nat.mod_eq_of_lt hlt

/-- A residue lies below its modulus. -/
theorem residue_lt (v : Nat) {n : Word} (h : n ≠ 0) : (residue v n).toNat < n.toNat := by
  rw [residue_toNat v h]
  exact Nat.mod_lt _ (toNat_pos_of_ne_zero h)

theorem modOf_toNat (a : Word) {n : Word} (h : n ≠ 0) : (modOf a n).toNat = a.toNat % n.toNat :=
  residue_toNat _ h

theorem quotOf_toNat (a : Word) {n : Word} (h : n ≠ 0) : (quotOf a n).toNat = a.toNat / n.toNat := by
  have hlt : a.toNat / n.toNat < 2 ^ 64 := lt_of_le_of_lt (Nat.div_le_self _ _) a.isLt
  simp only [quotOf, if_neg h, BitVec.toNat_ofNat]
  exact Nat.mod_eq_of_lt hlt

theorem sumMod_add_toNat (a b : Word) {n : Word} (h : n ≠ 0) :
    (sumMod .add a b n).toNat = (a.toNat + b.toNat) % n.toNat :=
  residue_toNat _ h

/-- Subtraction gives the non-negative residue of the difference over the integers (R141). -/
theorem sumMod_sub_toNat (a b : Word) {n : Word} (h : n ≠ 0) :
    ((sumMod .sub a b n).toNat : Int) = ((a.toNat : Int) - b.toNat) % n.toNat := by
  have hn : (0 : Int) < n.toNat := by exact_mod_cast toNat_pos_of_ne_zero h
  have h0 : 0 ≤ ((a.toNat : Int) - b.toNat) % n.toNat := Int.emod_nonneg _ hn.ne'
  have hs : (sumMod .sub a b n).toNat = (((a.toNat : Int) - b.toNat) % n.toNat).toNat % n.toNat :=
    residue_toNat _ h
  rw [hs, Int.natCast_mod, Int.toNat_of_nonneg h0, Int.emod_emod_of_dvd _ dvd_rfl]

theorem prodMod_toNat (x y : Word) {n : Word} (h : n ≠ 0) : (prodMod x y n).toNat = x.toNat * y.toNat % n.toNat :=
  residue_toNat _ h

/-- The reduction unit's registers when it is done. -/
theorem runDiv_div (a n : Word) (u : Alu) : (runDiv a n u).div = ⟨n, 1, quotOf a n, modOf a n⟩ := rfl

end Sys2Proof.Machine
end

