-- ==== Sys2Proof/Tests/Slice0.lean ====
section
/-!
SUPPORT. Tests of the model against the spec's own worked examples and vectors (spec/95_test_vectors.md and the command
rules), one step each, and a witness for every statement that has hypotheses: a state and operands that meet them together.
Each test's comment names the place in the spec its expected value comes from.
-/
namespace Sys2Proof.Machine

set_option Elab.async false

/-! ### Well-formedness: an ill-formed term for each check (R95) -/

theorem test_illegal_reserved_bits : (CmdFields.mk 0x03 false 1).problem = some .reservedBits := by decide
theorem test_illegal_opcode_zero : (CmdFields.mk 0x00 false 0).problem = some .opcodeZero := by decide
theorem test_illegal_opcode_0D : (CmdFields.mk 0x0D false 0).problem = some .opcodeUndefined := by decide
theorem test_illegal_opcode_FF : (CmdFields.mk 0xFF true 0).problem = some .opcodeUndefined := by decide
theorem test_illegal_sub : (CmdFields.mk 0x0C true 0).problem = some .subNotAllowed := by decide
theorem test_legal_modsub : (CmdFields.mk 0x03 true 0).wellFormed = true := by decide

/-! ### Decoding: each word written out from the table of R91 -/

theorem test_decode_reduction : decode 0b1#64 = .ok .mod ∧ decode 0b10#64 = .ok .quot := by decide
theorem test_decode_adder : decode 0b11#64 = .ok .modadd ∧ decode 0b100000011#64 = .ok .modsub := by decide
theorem test_decode_multiplier : decode 0b100#64 = .ok .modmul := by decide
theorem test_decode_exponentiator : decode 0b101#64 = .ok .modpow := by decide
theorem test_decode_euclid :
    decode 0b110#64 = .ok .egcd ∧ decode 0b111#64 = .ok .gcd ∧ decode 0b1000#64 = .ok .modinv := by decide
theorem test_decode_random : decode 0b1001#64 = .ok .isprime ∧ decode 0b1010#64 = .ok .keygen := by decide
theorem test_decode_transform_clr : decode 0b1011#64 = .ok .rsaxf ∧ decode 0b1100#64 = .ok .clr := by decide
/-- Section 2.10: illegal words. -/
theorem test_decode_illegal :
    decode 0x101#64 = .error .subNotAllowed ∧ decode 0x10C#64 = .error .subNotAllowed ∧
      decode 0x203#64 = .error .reservedBits ∧ decode 0x8000000000000001#64 = .error .reservedBits ∧
      decode 0x0#64 = .error .opcodeZero ∧ decode 0xFF#64 = .error .opcodeUndefined := by decide
theorem test_decodeTableWord : decodeTableWord 64 0x103 = some .modsub ∧ decodeTableWord 64 0x10C = none := by decide

/-! ### A small state and what a test looks at -/

/-- The reset block with these operands and the command accepted, ready to run; `ev` is what happens outside after that. -/
def ready (i : Instr) (a b c : Word) (ev : List EnvEvent) : State :=
  { accept (encode i) State.reset with op := ⟨a, b, c⟩, env := .run :: ev }

/-- The result registers and `STATUS` after a step. -/
def seen (r : Result) : Option (ResRegs × Word) := (nextState? r).map fun t => (t.res, t.status)

/-- One result register and `STATUS`. -/
def seen0 (r : Result) : Option (Word × Word) := (nextState? r).map fun t => (t.res.r0, t.status)

/-! ### One step of each command -/

/-- Section 1, S2. -/
theorem test_mod : seen0 (step (ready .mod maxWord 2 0 [])) = some (1, 0x0102) := by decide
/-- R123: `mod(MAX, MAX) = 0`; section 2.1: a zero modulus. -/
theorem test_mod_edges :
    seen0 (step (ready .mod maxWord maxWord 0 [])) = some (0, 0x0102) ∧
      seen0 (step (ready .mod 5 0 9 [])) = some (0, 0x0016) := by decide
/-- R124. -/
theorem test_quot : seen0 (step (ready .quot 100 7 0 [])) = some (14, 0x0102) := by decide
/-- Section 1, S5; section 2.2, a sum that wraps. -/
theorem test_modadd :
    seen0 (step (ready .modadd maxWord 0xFFFFFFFFFFFFFFFD maxWord [])) = some (0xFFFFFFFFFFFFFFFD, 0x0102) ∧
      seen0 (step (ready .modadd 0x8000000000000005 0x8000000000000007 0x8000000000000009 [])) =
        some (0x8000000000000003, 0x0102) := by decide
/-- R143; section 2.2. -/
theorem test_modsub :
    seen0 (step (ready .modsub 5 7 10 [])) = some (8, 0x0102) ∧
      seen0 (step (ready .modsub 3 0 10 [])) = some (3, 0x0102) := by decide
/-- Section 2.3, full-width operands. -/
theorem test_modmul :
    seen0 (step (ready .modmul 0x123456789ABCDEF0 0x0FEDCBA987654321 0xFFFFFFFFFFFFFFC5 [])) =
      some (0x650B76B7E0002926, 0x0102) := by decide
/-- Section 2.4: `65 ^ 17 mod 3233`, and `exp = 0` with `n = 1`. -/
theorem test_modpow :
    seen0 (step (ready .modpow 65 17 3233 [])) = some (2790, 0x0102) ∧
      seen0 (step (ready .modpow 7 0 1 [])) = some (1, 0x0102) := by decide +kernel
/-- R176. -/
theorem test_egcd :
    seen (step (ready .egcd 11 26 0 [])) = some (⟨1, 0xFFFFFFFFFFFFFFF9, 3, 0, 0⟩, 0x0702) := by decide +kernel
/-- Section 2.5: the largest coefficient met. -/
theorem test_egcd_edge :
    seen (step (ready .egcd maxWord 2 0 [])) = some (⟨1, 1, 0x8000000000000001, 0, 0⟩, 0x0702) := by decide +kernel
/-- R177. -/
theorem test_gcd : seen0 (step (ready .gcd 12 18 0 [])) = some (6, 0x0102) := by decide +kernel
/-- Section 1, S14. -/
theorem test_modinv :
    seen (step (ready .modinv 11 26 0 [])) = some (⟨19, 1, 0, 0, 0⟩, 0x0302) := by decide +kernel
/-- Section 2.6, operands that are not coprime. -/
theorem test_modinv_not_coprime :
    seen (step (ready .modinv 6 9 0 [])) = some (⟨8, 3, 0, 0, 0⟩, 0x0302) := by decide +kernel
/-- Section 2.7: 2147483647 is accepted at base 2; section 2.7: 2147483649 by no base. -/
theorem test_isprime :
    seen0 (step (ready .isprime 2147483647 7 0 [])) = some (1, 0x0102) ∧
      seen0 (step (ready .isprime 2147483649 7 0 [])) = some (0, 0x0102) := by decide +kernel
/-- Program P5: two draws, the second accepted. -/
theorem test_isprime_draws :
    (nextState? (step (ready .isprime 65 9 0 [.answer 3, .answer 8, .answer 5]))).map
        (fun t => (t.res.r0, t.trace, t.env)) =
      some (1, [.answered 8, .request 2 64, .answered 3, .request 2 64], [.answer 5]) := by decide +kernel
/-- Section 2.8, K1. -/
theorem test_keygen :
    (nextState? (keygenWith ⟨7, 0⟩ { ready .keygen 0 0 0 [] with
        env := answers [134217728, 2147483647, 2147483647, 4294967291, 2, 65537] })).map
        (fun t => (t.res, t.status, keyTuple t.res)) =
      some (⟨0x7FFFFFFF, 0xFFFFFFFB, 0x10001, 0x088877773333CCCD, 0x7FFFFFFC80000005⟩, 0x1F02, true) := by
  decide +kernel
/-- Section 2.8, K3 (exhaustion) and K4 (a draw inside the test of `p`). R212, R217: a rejected `q` keeps `p` and asks for `q`
again, and its rejection and the one of `p` before it share one counter, so that a bound of 2 ends the command. -/
theorem test_keygen_bounds :
    seen0 (keygenWith ⟨7, 3⟩ { ready .keygen 0 0 0 [] with env := answers [134217728, 134217730, 134217732] }) =
        some (0, 0x005A) ∧
      (nextState? (keygenWith ⟨8, 0⟩ { ready .keygen 0 0 0 [] with env := answers [134217729, 5] })).map (·.trace) =
        some [.request 134217728 4294967296, .answered 5, .request 2 134217728, .answered 134217729,
          .request 134217728 4294967296] ∧
      (nextState? (keygenWith ⟨7, 3⟩ { State.reset with env := answers [134217728, 2147483647, 2147483647] })).map
        (fun t => (t.mode, t.work.kg.p, t.work.kg.attempts)) = some (.busy .drawQ, 2147483647, 2) ∧
      seen0 (keygenWith ⟨7, 2⟩ { State.reset with env := answers [134217728, 2147483647, 2147483647] }) =
        some (0, 0x005A) := by decide +kernel
/-- R231, and section 2.9: `data = n`, and a zero modulus that wins over the data range. -/
theorem test_rsaxf :
    seen0 (step (ready .rsaxf 2790 2753 3233 [])) = some (65, 0x0102) ∧
      seen0 (step (ready .rsaxf 3233 17 3233 [])) = some (0, 0x0026) ∧
      seen0 (step (ready .rsaxf 5 3 0 [])) = some (0, 0x0016) := by decide +kernel
/-- R240. -/
theorem test_clr :
    (nextState? (step (ready .clr 1 2 3 []))).map (fun t => (t.op, t.status, t.cmd)) =
      some (⟨0, 0, 0⟩, 0x0002, 0xC) := by decide
/-- Section 2.10: an illegal word is fatal and stays readable. -/
theorem test_illegal_word :
    (nextState? (step (State.reset.withFetchWord 64 0x8000000000000001))).map (fun t => (t.status, t.cmd)) =
      some (0x0046, 0x8000000000000001) := by decide
/-- Program P5: a write is lost while `BUSY`, and `STATUS` reads `BUSY`. -/
theorem test_write_while_busy :
    (nextState? (step { ready .mod 65 0 0 [] with env := [.write 2 0x63] })).map (fun t => (t.op.o0, t.status)) =
      some (65, 0x0001) := by decide
/-- Section 2.10: reads of unmapped indices. -/
theorem test_read_unmapped : (List.map (fun i => regRead i (ready .mod 1 2 3 [])) [5, 6, 7, 13, 14, 15]) =
    [0, 0, 0, 0, 0, 0] := by decide
/-- R120's trace of `DivMod(100, 7)` and section 2.1's longest run, by the pseudocode. -/
theorem test_divLoop :
    divLoop 100 7 = ⟨7, 1, 14, 2⟩ ∧ divLoop maxWord 1 = ⟨1, 1, maxWord, 0⟩ := by decide +kernel
/-- Section 2.2, by the pseudocode of R140 and the adder unit of R144: the correction of a wrapped sum. -/
theorem test_modAdd_wraps :
    modAdd .sub 0xFFFFFFFFFFFFFFFE 1 maxWord = 0xFFFFFFFFFFFFFFFD ∧
      (runAdd .sub 0xFFFFFFFFFFFFFFFE 1 maxWord Alu.zero).div.r = 0xFFFFFFFFFFFFFFFD := by decide +kernel
/-- R152's worked example, by the multiplier unit. -/
theorem test_runMul : (runMul 11 11 100 Alu.zero).mul.acc = 21 := by decide +kernel
/-- R176's worked example, by the Euclid unit. -/
theorem test_runEuclid :
    (runEuclid 11 26 Alu.zero).euc.s0 = 0xFFFFFFFFFFFFFFF9 ∧ (runEuclid 11 26 Alu.zero).euc.t0 = 3 := by decide +kernel

/-! ### Witnesses: a state and operands that meet all the hypotheses of a statement together -/

/-- EachCommandHasOneEncoding and IllegalWordsAreRefused have no hypothesis; both sides of each are met. -/
theorem witness_encodings : decode 0x103 = .ok .modsub ∧ decode 0x104 = .error .subNotAllowed := by decide

theorem witness_StepRunsTheAcceptedCommand :
    (ready .mod 7 3 0 []).mode = .busy .accepted ∧ decode (ready .mod 7 3 0 []).cmd = .ok .mod ∧
      (ready .mod 7 3 0 []).env = .run :: [] ∧ ({ ready .mod 7 3 0 [] with env := [] } : State).env = [] := by decide

theorem witness_IllegalWordHaltsTheBlock :
    (State.reset.withFetchWord 64 0x101).mode = .busy .accepted ∧
      decode (State.reset.withFetchWord 64 0x101).cmd = .error .subNotAllowed ∧
      (State.reset.withFetchWord 64 0x101).env = .run :: [] ∧
      (accept 0x101 State.reset).mode = .busy .accepted ∧ decode (accept 0x101 State.reset).cmd = .error .subNotAllowed ∧
      (accept 0x101 State.reset).env = [] := by decide

theorem witness_WriteToCmdIsAccepted :
    ({ State.reset with env := [.write 0 5] } : State).mode = .idle ∧
      ({ State.reset with env := [.write 0 5] } : State).env = .write 0 5 :: [] := by decide

/-- Each clause of HostWritesByMode: an event for every index, in `IDLE`, and one in `BUSY` and in `HALT`. -/
theorem witness_HostWritesByMode :
    (∀ i : Fin 16, ({ State.reset with env := [.write i 5] } : State).env = .write i 5 :: []) ∧
      State.reset.mode = .idle ∧ (ready .mod 1 2 3 []).mode ≠ .idle ∧
      (ready .mod 1 2 3 []).mode ≠ .busy .unspecified ∧ (endFatal .operand State.reset).mode ≠ .idle ∧
      (endFatal .operand State.reset).mode ≠ .busy .unspecified := by decide

theorem witness_HostReadsReturnTheRegister :
    ∀ i : Fin 16, ({ State.reset with env := [.read i] } : State).mode ≠ .busy .unspecified ∧
      ({ State.reset with env := [.read i] } : State).env = .read i :: [] := by decide

theorem witness_ResetClearsTheBlock :
    ({ ready .keygen 1 2 3 [] with env := [.reset] } : State).env = .reset :: [] ∧
      ({ divideByZero (ready .keygen 1 2 3 []) with env := [.reset] } : State).env = .reset :: [] ∧
      ({ keygenBegin (ready .keygen 1 2 3 []) with env := [.answerReset 5] } : State).env = .answerReset 5 :: [] ∧
      ({ keygenBegin (ready .keygen 1 2 3 []) with env := [.answerReset 5] } : State).port =
        some ⟨134217728, 4294967296⟩ ∧
      ({ State.reset with env := [.answerReset 5] } : State).env = .answerReset 5 :: [] ∧
      ({ State.reset with env := [.answerReset 5] } : State).port = none := by decide

theorem witness_StatusAfterEachEnd : (ready .mod 1 2 3 []).rvalid = 0 := by decide

theorem witness_OnlyResetLeavesHalt :
    ({ endFatal .operand State.reset with env := [.reset] } : State).mode = .halt ∧
      step { endFatal .operand State.reset with env := [.reset] } = .next State.reset ∧ State.reset.mode ≠ .halt :=
  ⟨rfl, rfl, by decide⟩

theorem witness_BlockWaitsForTheOutside :
    State.reset.env = [] ∧ State.reset.mode ≠ .busy .accepted ∧ State.reset.mode ≠ .busy .unspecified ∧
      (keygenBegin State.reset).env = [] ∧ (keygenBegin State.reset).mode ≠ .busy .accepted ∧
      (keygenBegin State.reset).mode ≠ .busy .unspecified := by decide

/-- An answer that a request waits for and one that none does; a `KEYGEN` and an `ISPRIME` left waiting, the second after
one answer. -/
theorem witness_AnswersGoToTheOutstandingRequest :
    ({ keygenBegin State.reset with env := [.answer 5] } : State).env = .answer 5 :: [] ∧
      ({ keygenBegin State.reset with env := [.answer 5] } : State).port = some ⟨134217728, 4294967296⟩ ∧
      ({ State.reset with env := [.answer 5] } : State).env = .answer 5 :: [] ∧
      ({ State.reset with env := [.answer 5] } : State).port = none ∧
      (nextState? (exec .keygen (ready .keygen 0 0 0 []))).map (·.port) = some (some ⟨134217728, 4294967296⟩) ∧
      (nextState? (exec .isprime { ready .isprime 65 9 0 [] with env := [.answer 2] })).map (fun t => (t.port, t.env)) =
        some (some ⟨2, 64⟩, []) := by decide +kernel

theorem witness_CommandLineRunsTheCommand :
    ({ State.reset with env := commandLine .modpow 4 2 10 ++ [.read 1] } : State).mode = .idle ∧
      ({ State.reset with env := commandLine .modpow 4 2 10 ++ [.read 1] } : State).env =
        commandLine .modpow 4 2 10 ++ [.read 1] := by decide

theorem witness_ZeroModulusHalts : State.reset.op.o0 = 0 ∧ State.reset.op.o1 = 0 ∧ State.reset.op.o2 = 0 := by decide

/-- `data = n`, the boundary of R253; and the candidate 1. -/
theorem witness_RefusedOperandsHalt :
    (ready .rsaxf 5 3 5 []).op.o2 ≠ 0 ∧ (ready .rsaxf 5 3 5 []).op.o2 ≤ (ready .rsaxf 5 3 5 []).op.o0 ∧
      (ready .isprime 1 0 0 []).op.o0 = 1 := by decide

theorem witness_FatalErrorsArePrecise :
    exec .mod (ready .mod 5 0 0 []) = .next (endFatal .zeroModulus (ready .mod 5 0 0 [])) ∧
      (endFatal .zeroModulus (ready .mod 5 0 0 [])).mode = .halt := ⟨rfl, rfl⟩

/-- A source that answers 0 to a window request breaks its contract (R74); the block goes on, and after a read and a write a
reset clears it (R280, R282). -/
theorem witness_EveryStepHasANextState :
    (nextState? (exec .keygen { ready .keygen 0 0 0 [] with env := [.answer 0] })).map (·.mode) =
        some (.busy .unspecified) ∧
      (nextState? (Host.Core.run Sys2Proof.core 4
        (ready .keygen 4 5 6 [.answer 0, .read 1, .write 2 7, .reset]))).map (fun t => { t with trace := [] }) =
          some State.reset := by decide +kernel

/-- Each branch of the statements on a modulus: zero, and the smallest and the largest that is not. -/
theorem witness_modulus_branches :
    (ready .mod 5 0 0 []).op.o1 = 0 ∧ (ready .mod 5 1 0 []).op.o1 ≠ 0 ∧ (ready .mod 5 maxWord 0 []).op.o1 ≠ 0 ∧
      (ready .modadd 5 1 0 []).op.o2 = 0 ∧ (ready .modadd 5 1 1 []).op.o2 ≠ 0 ∧
      (ready .modpow 5 0 maxWord []).op.o2 ≠ 0 ∧ (ready .modpow 5 0 maxWord []).op.o1 = 0 := by decide

/-- TransformCompletes, third branch: `data = n - 1`. -/
theorem witness_TransformCompletes :
    (ready .rsaxf 4 3 5 []).op.o2 ≠ 0 ∧ ¬ (ready .rsaxf 4 3 5 []).op.o2 ≤ (ready .rsaxf 4 3 5 []).op.o0 := by decide

/-- The premise `n != 0` of the pseudocode statements, and the cases of ModPowPseudocodeComputesThePower. -/
theorem witness_nonzero_modulus :
    (1 : Word) ≠ 0 ∧ (maxWord : Word) ≠ 0 ∧ 2 ≤ (2 : Word).toNat ∧ 1 ≤ (1 : Word).toNat := by decide

theorem witness_ModInvCompletes_coprime : gcdOf 11 26 = 1 ∧ (26 : Word) ≠ 0 := by decide +kernel

theorem witness_DecompositionIsOddTimesPowerOfTwo : 2 ≤ (2 : Word).toNat ∧ 2 ≤ maxWord.toNat := by decide

/-- `N = 2` (`s = 0`) and `N = 9` (`s = 3`). -/
theorem witness_RoundComparesTheSquarings :
    (2 ≤ (2 : Word).toNat ∧ 1 % 2 = 1 ∧ (2 : Word).toNat - 1 = 2 ^ 0 * 1) ∧
      (2 ≤ (9 : Word).toNat ∧ 1 % 2 = 1 ∧ (9 : Word).toNat - 1 = 2 ^ 3 * 1) := by decide

/-- The smallest candidate, accepted; and 15 with `repeat = 7`, rejected. -/
theorem witness_IsprimeCompletesWithoutDraws :
    2 ≤ (ready .isprime 2 0 0 []).op.o0.toNat ∧ fixedBaseAccepts 2 = true ∧ 2 ≤ (ready .isprime 15 7 0 []).op.o0.toNat ∧
      fixedBaseAccepts 15 = false ∧ (ready .isprime 15 7 0 []).op.o1.toNat ≤ 7 := by decide +kernel

/-- 65 with `repeat = 10`: 2 and 3 fail, 8 accepts; and with `repeat = 9`: 2 and 3 fail. -/
theorem witness_IsprimeCompletesWithDraws :
    (2 ≤ (65 : Word).toNat ∧ fixedBaseAccepts 65 = false ∧ (∀ b ∈ ([2, 3] : List Word), roundAccepts 65 b = false)) ∧
      (roundAccepts 65 8 = true ∧ 7 + ([2, 3] : List Word).length < (10 : Word).toNat ∧
        ({ ready .isprime 65 10 0 [] with env := answers ([2, 3] ++ [8]) ++ [] } : State).env =
          answers ([2, 3] ++ [8]) ++ []) ∧
      (([2, 3] : List Word) ≠ [] ∧ 7 + ([2, 3] : List Word).length = (9 : Word).toNat) :=
  ⟨⟨by decide, by decide +kernel,
    List.forall_mem_cons.2 ⟨by decide +kernel, List.forall_mem_singleton.2 (by decide +kernel)⟩⟩, by decide +kernel⟩

theorem witness_PrimeIsNeverCalledComposite : Nat.Prime (ready .isprime 2 0 0 []).op.o0.toNat := Nat.prime_two

theorem witness_FalseVerdictMeansComposite :
    2 ≤ (ready .isprime 15 7 0 []).op.o0.toNat ∧
      (nextState? (exec .isprime (ready .isprime 15 7 0 []))).map (fun t => (t.mode, t.res.r0)) = some (.idle, 0) := by
  decide +kernel

theorem witness_TrueVerdictIsNoProofOfPrimality :
    (ready .isprime 2047 7 0 []).op.o0 = 2047 ∧ (ready .isprime 3215031751 7 0 []).op.o0 = 3215031751 := by decide

/-- Section 2.8, K1 without its rejected draws. -/
theorem witness_KeygenCompletes :
    inWindow 2147483647 = true ∧ inWindow 4294967291 = true ∧ (2147483647 : Word) ≠ 4294967291 ∧
      fixedBaseAccepts 2147483647 = true ∧ fixedBaseAccepts 4294967291 = true ∧ 2 ≤ (65537 : Word).toNat ∧
      (65537 : Word).toNat < ((2147483647 : Word).toNat - 1) * ((4294967291 : Word).toNat - 1) ∧
      Nat.gcd (((2147483647 : Word).toNat - 1) * ((4294967291 : Word).toNat - 1)) (65537 : Word).toNat = 1 ∧
      ({ ready .keygen 0 0 0 [] with env := answers [2147483647, 4294967291, 65537] ++ [] } : State).env =
        answers [2147483647, 4294967291, 65537] ++ [] := by decide +kernel

theorem witness_CommandsWaitForTheSource :
    (∀ v rest, ({ ready .isprime 65 8 0 [] with env := [] } : State).env ≠ .answer v :: rest) ∧
      2 ≤ (65 : Word).toNat ∧ fixedBaseAccepts 65 = false ∧ 7 < (8 : Word).toNat :=
  ⟨fun v rest => (List.cons_ne_nil (EnvEvent.answer v) rest).symm, by decide +kernel⟩

/-- Section 2.8, K3: `RETRY_LIMIT = 3` and three even candidates; and the smallest bound. -/
theorem witness_RetryLimitEndsKeygen :
    (⟨7, 3⟩ : Config.Params).retryLimit ≠ 0 ∧ (⟨7, 3⟩ : Config.Params).kgRepeat.toNat ≤ 7 ∧
      ([134217728, 134217730, 134217732] : List Word).length = (⟨7, 3⟩ : Config.Params).retryLimit.toNat ∧
      (∀ c ∈ ([134217728, 134217730, 134217732] : List Word), 2 ≤ c.toNat ∧ fixedBaseAccepts c = false) ∧
      ([134217728] : List Word).length = (⟨7, 1⟩ : Config.Params).retryLimit.toNat :=
  ⟨by decide, by decide, by decide, List.forall_mem_cons.2 ⟨by decide +kernel, List.forall_mem_cons.2
    ⟨by decide +kernel, List.forall_mem_singleton.2 (by decide +kernel)⟩⟩, by decide⟩

theorem witness_NoLimitNeverExhausts :
    (⟨7, 0⟩ : Config.Params).retryLimit = 0 ∧ State.reset.err = .noError ∧
      keygenWith ⟨7, 0⟩ State.reset = .next (keygenBegin State.reset) ∧
      (keygenBegin State.reset).err = .noError ∧
      (nextState? (takeAnswer ⟨7, 0⟩ 134217728 (keygenBegin State.reset))).map (·.work.kg.attempts) = some 1 ∧
      (nextState? (drain ⟨7, 0⟩ (answers [134217728, 2147483647]) (keygenBegin State.reset))).map (·.mode) =
        some (.busy .drawQ) :=
  ⟨rfl, rfl, rfl, rfl, by decide +kernel, by decide +kernel⟩

/-- Section 2.7's verdicts: 134217728 fails without a draw, 65 is left open by the fixed bases and by 2, passes with base 8
and fails when base 2 is its last; and a candidate a fixed base accepts. -/
theorem witness_candidate_tests :
    TestPasses 7 2147483647 [] ∧ TestPasses 8 65 [8] ∧ TestFails 7 134217728 [] ∧ TestFails 8 65 [2] ∧
      TestUndecided 8 65 [] ∧ TestUndecided 9 65 [2] :=
  ⟨.inl (by decide +kernel),
    .inr ⟨[], 8, rfl, ⟨by decide, by decide +kernel, fun _ h => absurd h List.not_mem_nil, by decide⟩, by decide +kernel⟩,
    ⟨by decide, by decide +kernel, fun _ h => absurd h List.not_mem_nil, by decide⟩,
    ⟨by decide, by decide +kernel, List.forall_mem_singleton.2 (by decide +kernel), by decide⟩,
    ⟨by decide, by decide +kernel, fun _ h => absurd h List.not_mem_nil, by decide⟩,
    ⟨by decide, by decide +kernel, List.forall_mem_singleton.2 (by decide +kernel), by decide⟩⟩

/-- A block that waits for a candidate of `p`, and one that waits for a candidate of `q` with `p = 65`; 65 is that `p`, and
2147483647 is not. -/
theorem witness_KeygenTestsItsCandidates :
    (keygenBegin State.reset).mode = .busy .drawP ∧ (keygenBegin State.reset).port = some windowRequest ∧
      (drawQ (State.reset.withKg ⟨65, 0, 0, 0, 0, 0, 0⟩)).mode = .busy .drawQ ∧
      (drawQ (State.reset.withKg ⟨65, 0, 0, 0, 0, 0, 0⟩)).port = some windowRequest ∧
      (65 : Word) = (drawQ (State.reset.withKg ⟨65, 0, 0, 0, 0, 0, 0⟩)).work.kg.p ∧
      (2147483647 : Word) ≠ (drawQ (State.reset.withKg ⟨65, 0, 0, 0, 0, 0, 0⟩)).work.kg.p := by decide

/-- `phi = 8` with an `e` that shares a factor with it and one that does not, the smallest `phi` of the second clause, and
`phi = 1`. -/
theorem witness_KeygenDrawsTheExponent :
    (drawE (State.reset.withKg ⟨3, 5, 15, 8, 0, 0, 0⟩)).mode = .busy .drawE ∧
      (drawE (State.reset.withKg ⟨3, 5, 15, 8, 0, 0, 0⟩)).port = some ⟨2, 8⟩ ∧
      Nat.gcd (8 : Word).toNat (2 : Word).toNat ≠ 1 ∧ Nat.gcd (8 : Word).toNat (3 : Word).toNat = 1 ∧
      2 ≤ (8 : Word).toNat ∧ Nat.gcd (2 : Word).toNat (1 : Word).toNat = 1 ∧ 2 ≤ (2 : Word).toNat ∧
      (drawE (State.reset.withKg ⟨2, 2, 4, 1, 0, 0, 0⟩)).mode = .busy .drawE ∧
      (drawE (State.reset.withKg ⟨2, 2, 4, 1, 0, 0, 0⟩)).port = some ⟨2, 1⟩ ∧
      (drawE (State.reset.withKg ⟨2, 2, 4, 1, 0, 0, 0⟩)).work.kg.phi = 1 := by decide

/-- A block that waits for `p`, and the two ends of the window. -/
theorem witness_ContractKeepsKeygenRunning :
    BlockInv (keygenBegin (ready .keygen 0 0 0 [])) ∧ KeyInv (keygenBegin (ready .keygen 0 0 0 [])) ∧
      (keygenBegin (ready .keygen 0 0 0 [])).port = some ⟨134217728, 4294967296⟩ ∧
      (134217728 : Word) ≤ 134217728 ∧ (134217728 : Word) < 4294967296 ∧
      (134217728 : Word) ≤ 4294967295 ∧ (4294967295 : Word) < 4294967296 := by decide

/-- Program P2's key: 61, 53, `e = 17`, `d = 2753`, `data = 65`. -/
theorem witness_TransformRoundTrip :
    Nat.Prime 61 ∧ Nat.Prime 53 ∧ 61 ≠ 53 ∧ (3233 : Word).toNat = 61 * 53 ∧
      (17 : Word).toNat * (2753 : Word).toNat % ((61 - 1) * (53 - 1)) = 1 ∧ (65 : Word) < 3233 :=
  ⟨by norm_num, by norm_num, by decide, by decide, by decide, by decide⟩

theorem witness_OperandsSurviveEveryCommand :
    exec .egcd State.reset = .next (endSuccess ⟨0, 1, 0, 0, 0⟩ 0b00111 State.reset) ∧
      (endSuccess ⟨0, 1, 0, 0, 0⟩ 0b00111 State.reset).mode ≠ .busy .unspecified ∧ Instr.egcd ≠ .clr :=
  ⟨by rfl, by decide, by decide⟩

theorem witness_OtherCommandsMakeNoDraw :
    drawing .clr = false ∧
      exec .clr State.reset =
        .next (endSuccess ResRegs.zero 0b00000 { State.reset with op := OpRegs.zero }) := ⟨rfl, rfl⟩

/-- DrawingCommandsFrame: `ISPRIME` that ends, `KEYGEN` that waits, `ISPRIME` that halts, and a waiting block whose `FAIL`
is set. (The recoverable end of `KEYGEN` depends on the OPEN bound; `test_keygen_bounds` shows it for a given one.) -/
theorem witness_DrawingCommandsFrame :
    ((nextState? (exec .isprime (ready .isprime 2 0 0 []))).map (·.mode) = some .idle) ∧ drawing .keygen = true ∧
      ((nextState? (exec .keygen (ready .keygen 0 0 0 []))).map (fun t => (t.busyBit, t.mode)) = some (true, .busy .drawP)) ∧
      ((nextState? (exec .isprime (ready .isprime 0 0 0 []))).map (·.haltBit) = some true) ∧
      ((nextState? (exec .keygen { ready .keygen 0 0 0 [] with fail := true })).map (·.fail) = some true) := by
  decide +kernel

theorem witness_EveryStepKeepsBlockInv :
    BlockInv { State.reset with env := [.write 0 1] } ∧
      step { State.reset with env := [.write 0 1] } = .next (accept 1 State.reset) := ⟨by decide, rfl⟩

/-- A whole key generation in one step, its source keeping the contract. -/
theorem witness_EveryStepKeepsKeyInv :
    BlockInv (ready .keygen 0 0 0 (answers [2147483647, 4294967291, 65537])) ∧
      KeyInv (ready .keygen 0 0 0 (answers [2147483647, 4294967291, 65537])) ∧
      (nextState? (step (ready .keygen 0 0 0 (answers [2147483647, 4294967291, 65537])))).map
        (fun t => (keepsContract t.trace, t.rvalid)) = some (true, 0b11111) := by decide +kernel

theorem witness_RequestsAreNeverEmpty :
    BlockInv (keygenBegin (ready .keygen 0 0 0 [])) ∧ KeyInv (keygenBegin (ready .keygen 0 0 0 [])) ∧
      (keygenBegin (ready .keygen 0 0 0 [])).port = some ⟨134217728, 4294967296⟩ := by decide

end Sys2Proof.Machine
end

section
/-!
PROOF. The plain facts about the state: the layout of `STATUS`, the reset values, what a host read depends on, and a block
that waits for the outside (R24, R26, R32, R60 of the spec).
-/
namespace Sys2Proof.Machine

/-- The number of two fields side by side: the upper one counts in steps of the lower one's range. -/
theorem toNat_append_eq_add {m n : Nat} (x : BitVec m) (y : BitVec n) :
    (x ++ y).toNat = 2 ^ n * x.toNat + y.toNat := by
  rw [BitVec.toNat_append, ← Nat.shiftLeft_add_eq_or_of_lt y.isLt, Nat.shiftLeft_eq, Nat.mul_comm]

/-- Settles O9: each field of `STATUS` is put below the ones before it. -/
theorem statusLayout : Obligations.StatusLayout := by
  intro s
  have hupper : (0 : BitVec 51).toNat = 0 := rfl
  simp only [State.status, toNat_append_eq_add, BitVec.toNat_ofBool, hupper]
  omega

/-- Settles O11: the reset state is a literal. -/
theorem resetValues : Obligations.ResetValues := by
  refine ⟨rfl, rfl, ?_, rfl, rfl, rfl, rfl, rfl, rfl, rfl, rfl⟩
  decide

/-- Settles O57: the reset state is idle, with nothing valid and nothing outstanding. -/
theorem resetMeetsTheInvariants : Obligations.ResetMeetsTheInvariants := by
  refine ⟨.inr ⟨rfl, rfl, ?_, rfl, rfl⟩, rfl, ?_⟩ <;> decide

/-- The register space holds no working register and no part of the RNG port (R60). -/
theorem regRead_withWork_port (i : Fin 16) (s : State) (w : Work) (p : Option Request) :
    regRead i { s with work := w, port := p } = regRead i s := rfl

/-- Settles O56: with a specified behaviour the read returns a register, without one a value that hangs on the length of
the trace alone. -/
theorem hostReadsSeeNoWorkingRegister : Obligations.HostReadsSeeNoWorkingRegister := by
  intro i s w p
  by_cases hm : s.mode = .busy .unspecified
  · exact (if_pos hm).trans (if_pos hm).symm
  · rw [hostReadValue_of_specified i s hm, hostReadValue_of_specified i { s with work := w, port := p } hm]
    exact regRead_withWork_port i s w p

/-- The sequencer has work of its own only when a command is accepted (R242). -/
theorem sequencer_of_not_accepted (s : State) (h : s.mode ≠ .busy .accepted) : sequencer s = .next s := by
  unfold sequencer
  split
  · contradiction
  all_goals rfl

/-- The accepted command runs when the sequencer's time has come (R241). -/
theorem sequencer_of_accepted (s : State) (h : s.mode = .busy .accepted) : sequencer s = runCommand s := by
  unfold sequencer
  rw [h]

/-- Settles O15: without an event the step is the sequencer's, which has nothing to run. -/
theorem blockWaitsForTheOutside : Obligations.BlockWaitsForTheOutside := by
  intro s henv hacc _
  have hstep : step s = sequencer s := by unfold step; rw [henv]
  rw [hstep, sequencer_of_not_accepted s hacc]

end Sys2Proof.Machine
end

section
/-!
PROOF. The decoder's one word per command (R91).
-/
namespace Sys2Proof

/-- The fields of a word are all of it (R90). -/
theorem wordOf_fieldsOf (w : Word) : wordOf (fieldsOf w) = w := by
  apply BitVec.eq_of_getLsbD_eq
  intro i hi
  simp only [wordOf, fieldsOf, BitVec.getLsbD_append, BitVec.getLsbD_extractLsb']
  grind

/-- The opcode map gives a command on its own opcode and `SUB` only (R91). -/
theorem opcodeMap_eq_some {opc : Nat} {sub : Bool} {i : Instr} (h : opcodeMap opc sub = some i) :
    opc = (opcOf i).toNat ∧ sub = subOf i := by
  unfold opcodeMap at h
  split at h
  all_goals cases h
  all_goals exact ⟨rfl, rfl⟩

/-- Fields without a problem have their reserved bits zero (R95). -/
theorem CmdFields.reserved_of_problem_none {f : CmdFields} (h : f.problem = none) : f.reserved = 0 := by
  by_contra hr
  rw [CmdFields.problem, if_pos hr] at h
  cases h

/-- The word of a command is the only word that decodes to it (R91). -/
theorem eq_encode_of_decode {w : Word} {i : Instr} (h : decode w = .ok i) : w = encode i := by
  unfold decode at h
  split at h
  · cases h
  next hproblem =>
    split at h
    next j hmap =>
      cases h
      obtain ⟨hopc, hsub⟩ := opcodeMap_eq_some hmap
      have hfields : fieldsOf w = encodeFields i := by
        have hreserved := CmdFields.reserved_of_problem_none hproblem
        revert hopc hsub hreserved
        cases fieldsOf w
        intro hopc hsub hreserved
        simp only [encodeFields, CmdFields.mk.injEq]
        exact ⟨BitVec.eq_of_toNat_eq hopc, hsub, hreserved⟩
      rw [encode, ← hfields, wordOf_fieldsOf]
    · cases h

end Sys2Proof
end

section
/-!
PROOF. What a command can leave behind, said once: `exec_cases` for the commands that make no draw, and for `ISPRIME` and
`KEYGEN` what every answer keeps, carried over a run of answers by `drain_keeps`.
-/
namespace Sys2Proof.Machine

/-- Every result register whose `RVALID` bit is zero keeps its value (R21). -/
def UnmarkedKept (rv : BitVec 5) (old new : ResRegs) : Prop :=
  (rv.getLsbD 0 = false → new.r0 = old.r0) ∧ (rv.getLsbD 1 = false → new.r1 = old.r1) ∧
    (rv.getLsbD 2 = false → new.r2 = old.r2) ∧ (rv.getLsbD 3 = false → new.r3 = old.r3) ∧
    (rv.getLsbD 4 = false → new.r4 = old.r4)

theorem unmarkedKept_set0 (r : ResRegs) (v : Word) : UnmarkedKept 0b00001 r (r.set0 v) :=
  ⟨fun h => absurd h (by decide), fun _ => rfl, fun _ => rfl, fun _ => rfl, fun _ => rfl⟩

theorem unmarkedKept_set01 (r : ResRegs) (v u : Word) : UnmarkedKept 0b00011 r (r.set01 v u) :=
  ⟨fun h => absurd h (by decide), fun h => absurd h (by decide), fun _ => rfl, fun _ => rfl, fun _ => rfl⟩

theorem unmarkedKept_set012 (r : ResRegs) (v u t : Word) : UnmarkedKept 0b00111 r (r.set012 v u t) :=
  ⟨fun h => absurd h (by decide), fun h => absurd h (by decide), fun h => absurd h (by decide), fun _ => rfl, fun _ => rfl⟩

theorem unmarkedKept_all (old new : ResRegs) : UnmarkedKept 0b11111 old new :=
  ⟨fun h => absurd h (by decide), fun h => absurd h (by decide), fun h => absurd h (by decide),
    fun h => absurd h (by decide), fun h => absurd h (by decide)⟩

/-- The codes of the fatal class (R251). -/
def FatalCode (c : ErrCode) : Prop := c = .zeroModulus ∨ c = .dataRange ∨ c = .operand ∨ c = .illegalCmd

/-- A command other than `CLR` has ended at `t` without a draw: in a fatal error, or in a success that writes only the
result registers it marks, and not all five of them. -/
def EndsAtOnce (s t : State) : Prop :=
  (∃ c, FatalCode c ∧ t = endFatal c s) ∨
    ∃ res rv, t = endSuccess res rv s ∧ UnmarkedKept rv s.res res ∧ rv ≠ 0b11111

theorem endsAtOnce_zeroModulus (s : State) : EndsAtOnce s (raiseError .zeroModulus s) :=
  .inl ⟨.zeroModulus, .inl rfl, rfl⟩

theorem endsAtOnce_set0 (s : State) (v : Word) : EndsAtOnce s (endSuccess (s.res.set0 v) 0b00001 s) :=
  .inr ⟨_, _, rfl, unmarkedKept_set0 _ _, by decide⟩

/-- A command that checks its modulus first and has one result (R123, R124, R142, R143, R152, R163). -/
theorem endsAtOnce_of_checked {s t : State} {n v : Word}
    (h : (if n = 0 then Host.Outcome.next (raiseError .zeroModulus s)
      else .next (endSuccess (s.res.set0 v) 0b00001 s) : Result) = .next t) : EndsAtOnce s t := by
  split at h
  · cases h
    exact endsAtOnce_zeroModulus s
  · cases h
    exact endsAtOnce_set0 s v

theorem execModinv_endsAtOnce {s t : State} (h : execModinv s = .next t) : EndsAtOnce s t := by
  unfold execModinv at h
  split at h
  · cases h
    exact endsAtOnce_zeroModulus s
  · cases h
    exact .inr ⟨_, _, rfl, unmarkedKept_set01 _ _ _, by decide⟩

/-- The transform raises one of two fatal errors (R231). -/
theorem fatalCode_of_rsaTransform {data key n : Word} {c : ErrCode} (h : rsaTransform data key n = .error c) :
    FatalCode c := by
  unfold rsaTransform at h
  split at h
  · cases h
    exact .inl rfl
  · split at h
    · cases h
      exact .inr (.inl rfl)
    · cases h

/-- A fatal error ends the command in the fatal class (R250). -/
theorem raiseError_of_fatalCode {c : ErrCode} (h : FatalCode c) (s : State) : raiseError c s = endFatal c s := by
  obtain rfl | rfl | rfl | rfl := h
  all_goals rfl

theorem execRsaxf_endsAtOnce {s t : State} (h : execRsaxf s = .next t) : EndsAtOnce s t := by
  unfold execRsaxf at h
  split at h
  next c hc =>
    cases h
    exact .inl ⟨c, fatalCode_of_rsaTransform hc, raiseError_of_fatalCode (fatalCode_of_rsaTransform hc) s⟩
  · cases h
    exact endsAtOnce_set0 s _

/-- `ISPRIME` refuses the operands 0 and 1 (R252, R254), and runs on any other. -/
theorem execIsprime_cases {s t : State} (h : execIsprime s = .next t) :
    (∃ c, FatalCode c ∧ t = endFatal c s) ∨
      (s.op.o0 ≠ 0 ∧ s.op.o0 ≠ 1 ∧ drain Config.params s.env (isprimeBegin s) = .next t) := by
  unfold execIsprime isprimeWith at h
  split at h
  · cases h
    exact .inl ⟨.zeroModulus, .inl rfl, rfl⟩
  next h0 =>
    split at h
    · cases h
      exact .inl ⟨.operand, .inr (.inr (.inl rfl)), rfl⟩
    next h1 => exact .inr ⟨h0, h1, h⟩

/-- What a command can do: the commands that make no draw end at once, `CLR` clears, `ISPRIME` refuses its operand or runs
over its answers, and `KEYGEN` runs over its answers. -/
theorem exec_cases {i : Instr} {s t : State} (h : exec i s = .next t) :
    EndsAtOnce s t ∨ (i = .clr ∧ t = endSuccess ResRegs.zero 0 { s with op := OpRegs.zero }) ∨
      (i = .isprime ∧ s.op.o0 ≠ 0 ∧ s.op.o0 ≠ 1 ∧ drain Config.params s.env (isprimeBegin s) = .next t) ∨
      (i = .keygen ∧ drain Config.params s.env (keygenBegin s) = .next t) := by
  cases i with
  | mod => exact .inl (endsAtOnce_of_checked h)
  | quot => exact .inl (endsAtOnce_of_checked h)
  | modadd => exact .inl (endsAtOnce_of_checked h)
  | modsub => exact .inl (endsAtOnce_of_checked h)
  | modmul => exact .inl (endsAtOnce_of_checked h)
  | modpow => exact .inl (endsAtOnce_of_checked h)
  | egcd =>
    cases h
    exact .inl (.inr ⟨_, _, rfl, unmarkedKept_set012 _ _ _ _, by decide⟩)
  | gcd =>
    cases h
    exact .inl (endsAtOnce_set0 s _)
  | modinv => exact .inl (execModinv_endsAtOnce h)
  | rsaxf => exact .inl (execRsaxf_endsAtOnce h)
  | clr =>
    cases h
    exact .inr (.inl ⟨rfl, rfl⟩)
  | keygen => exact .inr (.inr (.inr ⟨rfl, h⟩))
  | isprime =>
    rcases execIsprime_cases h with hfatal | hrun
    · exact .inl (.inl hfatal)
    · exact .inr (.inr (.inl ⟨rfl, hrun⟩))

/-- `ISPRIME` up to its first request or its end (R195) is one piece of the sequencer's work. -/
theorem isprimeBegin_step (s : State) : ∃ w, IsprimeStep s w (isprimeBegin s) := ⟨_, isprimeFrom_step _ s _⟩

/-- `KEYGEN` asks for `p` first (R210). -/
theorem keygenBegin_step (s : State) : ∃ w, KeygenStep s w (keygenBegin s) :=
  ⟨{ s.work with kg := { s.work.kg with attempts := 0 } }, .inr (.inr (.inl rfl))⟩

/-! ### Operands and `CMD` -/

theorem IsprimeStep.op_cmd {s t : State} {w : Work} (h : IsprimeStep s w t) : t.op = s.op ∧ t.cmd = s.cmd := by
  rcases h with rfl | rfl | rfl
  all_goals exact ⟨rfl, rfl⟩

theorem KeygenStep.op_cmd {s t : State} {w : Work} (h : KeygenStep s w t) : t.op = s.op ∧ t.cmd = s.cmd := by
  rcases h with rfl | rfl | rfl | rfl | rfl | rfl | rfl | rfl | rfl
  all_goals exact ⟨rfl, rfl⟩

theorem EndsAtOnce.op_cmd {s t : State} (h : EndsAtOnce s t) : t.op = s.op ∧ t.cmd = s.cmd := by
  rcases h with ⟨c, -, rfl⟩ | ⟨res, rv, rfl, -, -⟩
  all_goals exact ⟨rfl, rfl⟩

/-- No answer changes an operand register or `CMD` (R20, R23). -/
theorem takeAnswer_op_cmd {par : Config.Params} {v : Word} {s t : State} (h : takeAnswer par v s = .next t) :
    t.op = s.op ∧ t.cmd = s.cmd := by
  rcases takeAnswer_cases par v s t h with ⟨-, w, hstep⟩ | ⟨g, -, -, w, hstep⟩ | ⟨-, rfl⟩
  · exact hstep.op_cmd
  · exact hstep.op_cmd
  · exact ⟨rfl, rfl⟩

/-- Running over the answers changes neither an operand register nor `CMD` (R20, R23). -/
theorem drain_op_cmd {par : Config.Params} {l : List EnvEvent} {s t : State} (h : drain par l s = .next t) :
    t.op = s.op ∧ t.cmd = s.cmd := by
  refine drain_keeps par (fun x => x.op = s.op ∧ x.cmd = s.cmd) (fun _ _ hx => hx) ?_ l s t ⟨rfl, rfl⟩ h
  intro x v r x' hx _ htake
  obtain ⟨hop, hcmd⟩ := takeAnswer_op_cmd htake
  exact ⟨hop.trans hx.1, hcmd.trans hx.2⟩

/-- Settles O53: every end and every wait keeps the operand registers and `CMD`, and only `CLR` clears the former first. -/
theorem operandsSurviveEveryCommand : Obligations.OperandsSurviveEveryCommand := by
  intro i s t h _
  rcases exec_cases h with hend | ⟨rfl, rfl⟩ | ⟨-, -, -, hdrain⟩ | ⟨-, hdrain⟩
  · exact ⟨fun _ => hend.op_cmd.1, hend.op_cmd.2⟩
  · exact ⟨fun hi => absurd rfl hi, rfl⟩
  · obtain ⟨w, hbegin⟩ := isprimeBegin_step s
    obtain ⟨hop, hcmd⟩ := drain_op_cmd hdrain
    exact ⟨fun _ => hop.trans hbegin.op_cmd.1, hcmd.trans hbegin.op_cmd.2⟩
  · obtain ⟨w, hbegin⟩ := keygenBegin_step s
    obtain ⟨hop, hcmd⟩ := drain_op_cmd hdrain
    exact ⟨fun _ => hop.trans hbegin.op_cmd.1, hcmd.trans hbegin.op_cmd.2⟩

/-! ### Result registers and `RVALID` -/

/-- From the results and `RVALID` of `s`, a drawing command is at `t`: it has ended in success, or has written neither. -/
def DrawFrame (s t : State) : Prop :=
  (t.res = s.res ∧ t.rvalid = s.rvalid) ∨ (t.mode = .idle ∧ t.fail = false ∧ t.port = none)

theorem IsprimeStep.drawFrame {s t : State} {w : Work} (h : IsprimeStep s w t) : DrawFrame s t := by
  rcases h with rfl | rfl | rfl
  · exact .inr ⟨rfl, rfl, rfl⟩
  · exact .inr ⟨rfl, rfl, rfl⟩
  · exact .inl ⟨rfl, rfl⟩

theorem KeygenStep.drawFrame {s t : State} {w : Work} (h : KeygenStep s w t) : DrawFrame s t := by
  rcases h with rfl | rfl | rfl | rfl | rfl | rfl | rfl | rfl | rfl
  · exact .inr ⟨rfl, rfl, rfl⟩
  all_goals exact .inl ⟨rfl, rfl⟩

theorem takeAnswer_drawFrame {par : Config.Params} {v : Word} {s t : State} (h : takeAnswer par v s = .next t) :
    DrawFrame s t := by
  rcases takeAnswer_cases par v s t h with ⟨-, w, hstep⟩ | ⟨g, -, -, w, hstep⟩ | ⟨-, rfl⟩
  · exact hstep.drawFrame
  · exact hstep.drawFrame
  · exact .inl ⟨rfl, rfl⟩

/-- A command that has ended takes no further answer, so the frame holds over any number of them (R72). -/
theorem drain_drawFrame {par : Config.Params} {l : List EnvEvent} {s s' t : State} (hs : DrawFrame s s')
    (h : drain par l s' = .next t) : DrawFrame s t := by
  refine drain_keeps par (DrawFrame s) (fun _ _ hx => hx) ?_ l s' t hs h
  intro x v r x' hx hport htake
  rcases hx with ⟨hres, hrvalid⟩ | ⟨-, -, hnone⟩
  · rcases takeAnswer_drawFrame htake with ⟨hres', hrvalid'⟩ | hend
    · exact .inl ⟨hres'.trans hres, hrvalid'.trans hrvalid⟩
    · exact .inr hend
  · rw [hnone] at hport
    cases hport

/-- A block that is `BUSY`, halted or failed has not ended in success. -/
theorem DrawFrame.res_rvalid {s t : State} (h : DrawFrame s t)
    (hend : t.busyBit = true ∨ t.haltBit = true ∨ t.fail = true) : t.res = s.res ∧ t.rvalid = s.rvalid := by
  rcases h with hkept | ⟨hmode, hfail, -⟩
  · exact hkept
  · simp [State.busyBit, State.haltBit, hmode, hfail] at hend

/-- A command of one transition that ends in an error writes no result and no `RVALID` bit (R242). -/
theorem EndsAtOnce.drawFrame {s t : State} (h : EndsAtOnce s t) : DrawFrame s t := by
  rcases h with ⟨c, -, rfl⟩ | ⟨res, rv, rfl, -, -⟩
  · exact .inl ⟨rfl, rfl⟩
  · exact .inr ⟨rfl, rfl, rfl⟩

/-- The four result registers above `RES[0]` are the same. -/
def UpperResultsKept (s t : State) : Prop :=
  t.res.r1 = s.res.r1 ∧ t.res.r2 = s.res.r2 ∧ t.res.r3 = s.res.r3 ∧ t.res.r4 = s.res.r4

/-- `ISPRIME` at `t`: the upper results are those of `s`, and it waits in `T_WAIT` if it waits. -/
def IsprimeFrame (s t : State) : Prop :=
  UpperResultsKept s t ∧ (t.port = none ∨ t.mode = .busy .isPrimeWait)

theorem IsprimeStep.frame {s t : State} {w : Work} (h : IsprimeStep s w t) : IsprimeFrame s t := by
  rcases h with rfl | rfl | rfl
  · exact ⟨⟨rfl, rfl, rfl, rfl⟩, .inl rfl⟩
  · exact ⟨⟨rfl, rfl, rfl, rfl⟩, .inl rfl⟩
  · exact ⟨⟨rfl, rfl, rfl, rfl⟩, .inr rfl⟩

theorem drain_isprimeFrame {par : Config.Params} {l : List EnvEvent} {s s' t : State} (hs : IsprimeFrame s s')
    (h : drain par l s' = .next t) : IsprimeFrame s t := by
  refine drain_keeps par (IsprimeFrame s) (fun _ _ hx => hx) ?_ l s' t hs h
  rintro x v r x' ⟨⟨h1, h2, h3, h4⟩, hwait⟩ hport htake
  have hmode : x.mode = .busy .isPrimeWait := hwait.resolve_left (by rw [hport]; exact Option.some_ne_none r)
  rcases takeAnswer_cases par v x x' htake with ⟨-, w, hstep⟩ | ⟨g, hg, hkg, -⟩ | ⟨hno, -⟩
  · obtain ⟨⟨g1, g2, g3, g4⟩, hwait'⟩ := hstep.frame
    exact ⟨⟨g1.trans h1, g2.trans h2, g3.trans h3, g4.trans h4⟩, hwait'⟩
  · rw [hmode] at hg
    cases hg
    cases hkg
  · exact absurd rfl (hno _ hmode).1

/-- A fatal end writes no result (R242). -/
theorem endFatal_isprimeFrame (c : ErrCode) (s : State) : IsprimeFrame s (endFatal c s) :=
  ⟨⟨rfl, rfl, rfl, rfl⟩, .inl rfl⟩

/-- Settles O55: a refusal writes nothing; from the first request on, each answer keeps the frame. -/
theorem drawingCommandsFrame : Obligations.DrawingCommandsFrame := by
  refine ⟨fun s t h => ?_, fun i s t hdraw h _ hend => ?_⟩
  · rcases execIsprime_cases h with ⟨c, -, rfl⟩ | ⟨-, -, hdrain⟩
    · exact (endFatal_isprimeFrame c s).1
    · obtain ⟨w, hbegin⟩ := isprimeBegin_step s
      exact (drain_isprimeFrame hbegin.frame hdrain).1
  · refine DrawFrame.res_rvalid ?_ hend
    rcases exec_cases h with hend | ⟨rfl, -⟩ | ⟨-, -, -, hdrain⟩ | ⟨-, hdrain⟩
    · exact hend.drawFrame
    · cases hdraw
    · obtain ⟨w, hbegin⟩ := isprimeBegin_step s
      exact drain_drawFrame hbegin.drawFrame hdrain
    · obtain ⟨w, hbegin⟩ := keygenBegin_step s
      exact drain_drawFrame hbegin.drawFrame hdrain

end Sys2Proof.Machine
end

section
/-!
PROOF. Every step keeps the invariants of the block (R21, R23, R25, R26, R29): `step_cases` says what a step can do, and
each of those operations keeps `BlockInv`.
-/
namespace Sys2Proof.Machine

/-! ### The invariants of a running command -/

/-- What a running command shows the host: `DONE`, `FAIL`, `ERR`, `RVALID` and every result register are zero (R25, R241). -/
structure Unwritten (s : State) : Prop where
  done : s.done = false
  fail : s.fail = false
  err : s.err = .noError
  rvalid : s.rvalid = 0
  res : s.res = ResRegs.zero

theorem statusInv_busy {s : State} {g : Stage} (hm : s.mode = .busy g) :
    statusInv s = true ↔ s.done = false ∧ s.fail = false ∧ s.err = .noError ∧ s.rvalid = 0 := by
  simp [statusInv, hm, and_assoc]

/-- With no `RVALID` bit set every result register is zero (R21). -/
theorem resultInv_of_rvalid_zero {s : State} (h : s.rvalid = 0) : resultInv s = true ↔ s.res = ResRegs.zero := by
  obtain ⟨mode, cmd, op, ⟨r0, r1, r2, r3, r4⟩, done, fail, err, rvalid, work, port, env, trace⟩ := s
  subst h
  simp [resultInv, ResRegs.zero, and_assoc]

/-- A success end from zero results keeps R21 when it marks what it writes. -/
theorem resultInv_endSuccess {s : State} {res : ResRegs} {rv : BitVec 5} (hres : s.res = ResRegs.zero)
    (h : UnmarkedKept rv s.res res) : resultInv (endSuccess res rv s) = true := by
  obtain ⟨h0, h1, h2, h3, h4⟩ := h
  rw [hres] at h0 h1 h2 h3 h4
  have marked : ∀ (b : Bool) (v : Word), (b = false → v = 0) → (b || v == 0) = true := by
    intro b v hv
    cases b <;> simp_all
  simp only [resultInv, endSuccess_res, endSuccess_rvalid, Bool.and_eq_true]
  exact ⟨⟨⟨⟨marked _ _ h0, marked _ _ h1⟩, marked _ _ h2⟩, marked _ _ h3⟩, marked _ _ h4⟩

/-- The invariants of a running command with a specified behaviour: it has written nothing, and its working registers, the
port and `CMD` are as its stage asks. -/
theorem blockInv_busy {s : State} {g : Stage} (hm : s.mode = .busy g) (hg : g ≠ .unspecified) :
    BlockInv s ↔ Unwritten s ∧ workInv s = true ∧ portInv s = true ∧ cmdInv s = true := by
  have hspec : s.mode ≠ .busy .unspecified := fun h => hg (Mode.busy.inj (hm.symm.trans h))
  constructor
  · rintro (h | ⟨hstatus, hresult, hrest⟩)
    · exact absurd h hspec
    · obtain ⟨hdone, hfail, herr, hrvalid⟩ := (statusInv_busy hm).1 hstatus
      exact ⟨⟨hdone, hfail, herr, hrvalid, (resultInv_of_rvalid_zero hrvalid).1 hresult⟩, hrest⟩
  · rintro ⟨h, hrest⟩
    exact .inr ⟨(statusInv_busy hm).2 ⟨h.done, h.fail, h.err, h.rvalid⟩,
      (resultInv_of_rvalid_zero h.rvalid).2 h.res, hrest⟩

/-- The list of what the outside agents do next is no part of the invariants. -/
theorem blockInv_withEnv {s : State} (l : List EnvEvent) : BlockInv { s with env := l } ↔ BlockInv s := Iff.rfl

/-! ### The port -/

/-- The port of a block with a specified behaviour holds the request its position asks for (R29). -/
theorem BlockInv.port_eq {s : State} (h : BlockInv s) (hm : s.mode ≠ .busy .unspecified) :
    s.port = expectedRequest s := by
  rcases h with h | ⟨-, -, -, hport, -⟩
  · exact absurd h hm
  · exact eq_of_beq (Bool.and_eq_true_iff.1 hport).1

/-- An outstanding request is the newest one on the port (R72). -/
theorem BlockInv.lastRequest_eq {s : State} {r : Request} (h : BlockInv s) (hm : s.mode ≠ .busy .unspecified)
    (hr : s.port = some r) : lastRequest s.trace = some r := by
  rcases h with h | ⟨-, -, -, hport, -⟩
  · exact absurd h hm
  · simpa [hr] using (Bool.and_eq_true_iff.1 hport).2

/-- Without an outstanding request the port is right where none is asked for (R29). -/
theorem portInv_of_none {s : State} (h : s.port = none) (hexp : expectedRequest s = none) : portInv s = true := by
  simp [portInv, h, hexp]

/-- Where the block does not wait, no request is asked for (R29). -/
theorem expectedRequest_of_not_waiting {s : State}
    (h : ∀ g, s.mode = .busy g → g ≠ .isPrimeWait ∧ keygenStage g = false) : expectedRequest s = none := by
  cases hm : s.mode with
  | idle => simp [expectedRequest, hm]
  | halt => simp [expectedRequest, hm]
  | busy g =>
    obtain ⟨hg, hkg⟩ := h g hm
    cases g <;> simp_all [expectedRequest, keygenStage]

/-- A stage that asks for a request has a specified behaviour, and its working registers are in use (R26). -/
theorem specified_of_expectedRequest {s : State} {g : Stage} {r : Request} (hm : s.mode = .busy g)
    (h : expectedRequest s = some r) : g ≠ .unspecified ∧ workInv s = true := by
  cases g <;> simp_all [expectedRequest, workInv]

/-! ### Ends and waits of a running command -/

section
variable {s : State} (hs : Unwritten s)
include hs

theorem Unwritten.endSuccess {res : ResRegs} {rv : BitVec 5} (h : UnmarkedKept rv s.res res) :
    BlockInv (endSuccess res rv s) :=
  .inr ⟨rfl, resultInv_endSuccess hs.res h, beq_self_eq_true _, rfl, rfl⟩

theorem Unwritten.endFatal {c : ErrCode} (h : FatalCode c) : BlockInv (endFatal c s) := by
  refine .inr ⟨?_, (resultInv_of_rvalid_zero hs.rvalid).2 hs.res, beq_self_eq_true _, rfl, rfl⟩
  obtain rfl | rfl | rfl | rfl := h
  all_goals simp [statusInv, hs.rvalid]

theorem Unwritten.endExhausted : BlockInv (endRecoverable .retryExhausted s) :=
  .inr ⟨by simp [statusInv, hs.rvalid], (resultInv_of_rvalid_zero hs.rvalid).2 hs.res, beq_self_eq_true _, rfl, rfl⟩

/-- Presenting the request of a waiting stage makes it the outstanding and the newest one. -/
theorem Unwritten.present {lo hi : Word} {g : Stage} (hg : expectedRequest (present lo hi g s) = some ⟨lo, hi⟩)
    (hc : cmdInv (present lo hi g s) = true) : BlockInv (present lo hi g s) := by
  have hport : portInv (Machine.present lo hi g s) = true := by simp [portInv, hg, lastRequest]
  obtain ⟨hspec, hwork⟩ := specified_of_expectedRequest (present_mode s lo hi g) hg
  exact (blockInv_busy (present_mode s lo hi g) hspec).2
    ⟨⟨hs.done, hs.fail, hs.err, hs.rvalid, hs.res⟩, hwork, hport, hc⟩

/-- Halving the candidate 1 for ever asks for nothing (R191). -/
theorem Unwritten.decomposeForever (hp : s.port = none) (hc : s.cmd = encode .keygen) : BlockInv (decomposeForever s) :=
  (blockInv_busy rfl (by decide)).2
    ⟨⟨hs.done, hs.fail, hs.err, hs.rvalid, hs.res⟩, rfl, portInv_of_none hp rfl, by simp [cmdInv, Machine.decomposeForever, hc]⟩

theorem Unwritten.withWork (w : Work) : Unwritten (s.withWork w) := ⟨hs.done, hs.fail, hs.err, hs.rvalid, hs.res⟩

theorem Unwritten.takeFromPort (v : Word) : Unwritten (takeFromPort v s) :=
  ⟨hs.done, hs.fail, hs.err, hs.rvalid, hs.res⟩

/-- `ISPRIME` ends or waits within the invariants. -/
theorem IsprimeStep.blockInv {t : State} {w : Work} (h : IsprimeStep s w t) (hc : s.cmd = encode .isprime) :
    BlockInv t := by
  rcases h with rfl | rfl | rfl
  · exact (hs.withWork w).endSuccess (unmarkedKept_set0 _ _)
  · exact (hs.withWork w).endSuccess (unmarkedKept_set0 _ _)
  · exact (hs.withWork w).present rfl (beq_iff_eq.2 hc)

/-- `KEYGEN` ends, waits, halves for ever or loses its specified behaviour within the invariants. -/
theorem KeygenStep.blockInv {t : State} {w : Work} (h : KeygenStep s w t) (hc : s.cmd = encode .keygen)
    (hp : s.port = none) : BlockInv t := by
  have hw := hs.withWork w
  rcases h with rfl | rfl | rfl | rfl | rfl | rfl | rfl | rfl | rfl
  · exact hw.endSuccess (unmarkedKept_all _ _)
  · exact hw.endExhausted
  · exact hw.present rfl (beq_iff_eq.2 hc)
  · exact hw.present rfl (beq_iff_eq.2 hc)
  · exact hw.present rfl (beq_iff_eq.2 hc)
  · exact hw.present rfl (beq_iff_eq.2 hc)
  · exact hw.present rfl (beq_iff_eq.2 hc)
  · exact hw.decomposeForever hp hc
  · exact .inl rfl

theorem EndsAtOnce.blockInv {t : State} (h : EndsAtOnce s t) : BlockInv t := by
  rcases h with ⟨c, hc, rfl⟩ | ⟨res, rv, rfl, hkept, -⟩
  · exact hs.endFatal hc
  · exact hs.endSuccess hkept

end

/-! ### Answers -/

/-- A stage in which `KEYGEN` waits has a specified behaviour and `CMD` holds `KEYGEN` in it. -/
theorem cmd_of_keygenStage {s : State} {g : Stage} (hm : s.mode = .busy g) (hg : keygenStage g = true)
    (hc : cmdInv s = true) : s.cmd = encode .keygen := by
  unfold cmdInv at hc
  rw [hm] at hc
  cases g with
  | drawP => exact eq_of_beq hc
  | testPWait => exact eq_of_beq hc
  | drawQ => exact eq_of_beq hc
  | testQWait => exact eq_of_beq hc
  | drawE => exact eq_of_beq hc
  | accepted => cases hg
  | isPrimeWait => cases hg
  | decomposing => cases hg
  | unspecified => cases hg

/-- Taking the answer to an outstanding request keeps the invariants, whatever the answer is. -/
theorem takeAnswer_blockInv {par : Config.Params} {v : Word} {s t : State} {r : Request} (hs : BlockInv s)
    (hr : s.port = some r) (h : takeAnswer par v s = .next t) : BlockInv t := by
  rcases takeAnswer_cases par v s t h with ⟨hm, w, hstep⟩ | ⟨g, hm, hg, w, hstep⟩ | ⟨hno, rfl⟩
  · obtain ⟨hu, -, -, hc⟩ := (blockInv_busy hm (by decide)).1 hs
    have hcmd : s.cmd = encode .isprime := by simpa [cmdInv, hm] using hc
    exact hstep.blockInv (hu.takeFromPort v) hcmd
  · have hspec : g ≠ .unspecified := by rintro rfl; cases hg
    obtain ⟨hu, -, -, hc⟩ := (blockInv_busy hm hspec).1 hs
    exact hstep.blockInv (hu.takeFromPort v) (cmd_of_keygenStage hm hg hc) rfl
  · by_cases hm : s.mode = .busy .unspecified
    · exact .inl hm
    · rw [hs.port_eq hm, expectedRequest_of_not_waiting hno] at hr
      cases hr

theorem drain_blockInv {par : Config.Params} {l : List EnvEvent} {s t : State} (hs : BlockInv s)
    (h : drain par l s = .next t) : BlockInv t :=
  drain_keeps par BlockInv (fun _ l hx => (blockInv_withEnv l).2 hx) (fun _ _ _ _ hx hr => takeAnswer_blockInv hx hr)
    l s t hs h

/-! ### The run of an accepted command -/

/-- What an accepted command starts from (R241): nothing written, no request outstanding. -/
theorem BlockInv.of_accepted {s : State} (hs : BlockInv s) (hm : s.mode = .busy .accepted) :
    Unwritten s ∧ s.port = none := by
  refine ⟨((blockInv_busy hm (by decide)).1 hs).1, ?_⟩
  rw [hs.port_eq (by simp [hm]), expectedRequest, hm]

/-- An accepted word is illegal and halts the block, or is the one word of a command, which runs (R91, R95, R255). -/
theorem runCommand_cases {s t : State} (h : runCommand s = .next t) :
    t = endFatal .illegalCmd s ∨ ∃ i, s.cmd = encode i ∧ exec i s = .next t := by
  unfold runCommand at h
  split at h
  next i hi => exact .inr ⟨i, eq_encode_of_decode hi, h⟩
  · cases h
    exact .inl rfl

theorem exec_blockInv {i : Instr} {s t : State} (hu : Unwritten s) (hp : s.port = none) (hc : s.cmd = encode i)
    (h : exec i s = .next t) : BlockInv t := by
  rcases exec_cases h with hend | ⟨rfl, rfl⟩ | ⟨rfl, -, -, hdrain⟩ | ⟨rfl, hdrain⟩
  · exact hend.blockInv hu
  · have hu' : Unwritten { s with op := OpRegs.zero } := ⟨hu.done, hu.fail, hu.err, hu.rvalid, hu.res⟩
    refine hu'.endSuccess ?_
    rw [hu'.res]
    exact ⟨fun _ => rfl, fun _ => rfl, fun _ => rfl, fun _ => rfl, fun _ => rfl⟩
  · obtain ⟨w, hbegin⟩ := isprimeBegin_step s
    exact drain_blockInv (hbegin.blockInv hu hc) hdrain
  · obtain ⟨w, hbegin⟩ := keygenBegin_step s
    exact drain_blockInv (hbegin.blockInv hu hc hp) hdrain

theorem runCommand_blockInv {s t : State} (hs : BlockInv s) (hm : s.mode = .busy .accepted)
    (h : runCommand s = .next t) : BlockInv t := by
  obtain ⟨hu, hp⟩ := hs.of_accepted hm
  rcases runCommand_cases h with rfl | ⟨i, hc, hexec⟩
  · exact hu.endFatal (.inr (.inr (.inr rfl)))
  · exact exec_blockInv hu hp hc hexec

/-! ### The step -/

/-- Everything a step can do: take an event that changes nothing, a host access, a reset, run the accepted command, or
give an answer to the outstanding request. -/
theorem step_cases {s t : State} (h : step s = .next t) :
    (∃ l, t = { s with env := l }) ∨ (∃ i l, t = hostRead i { s with env := l }) ∨
      (∃ i v l, t = hostWrite i v { s with env := l }) ∨ (∃ s', t = resetBlock s') ∨
      (s.mode = .busy .accepted ∧ ∃ l, runCommand { s with env := l } = .next t) ∨
      ∃ r, s.port = some r ∧ drain Config.params s.env s = .next t := by
  have hseq : ∀ l, sequencer { s with env := l } = .next t → (∃ l, t = { s with env := l }) ∨
      (s.mode = .busy .accepted ∧ ∃ l, runCommand { s with env := l } = .next t) := by
    intro l hl
    by_cases hm : s.mode = .busy .accepted
    · rw [sequencer_of_accepted { s with env := l } hm] at hl
      exact .inr ⟨hm, l, hl⟩
    · rw [sequencer_of_not_accepted { s with env := l } hm] at hl
      cases hl
      exact .inl ⟨l, rfl⟩
  unfold step at h
  split at h
  next henv =>
    rcases hseq [] (by rw [← henv]; exact h) with hidle | hrun
    · exact .inl hidle
    · exact .inr (.inr (.inr (.inr (.inl hrun))))
  next i rest _ =>
    cases h
    exact .inr (.inl ⟨i, rest, rfl⟩)
  next i v rest _ =>
    cases h
    exact .inr (.inr (.inl ⟨i, v, rest, rfl⟩))
  · cases h
    exact .inr (.inr (.inr (.inl ⟨_, rfl⟩)))
  next rest _ =>
    rcases hseq rest h with hidle | hrun
    · exact .inl hidle
    · exact .inr (.inr (.inr (.inr (.inl hrun))))
  next v rest _ =>
    unfold answerEvent at h
    split at h
    next r hr => exact .inr (.inr (.inr (.inr (.inr ⟨r, hr, h⟩))))
    · cases h
      exact .inl ⟨rest, rfl⟩
  · cases h
    exact .inr (.inr (.inr (.inl ⟨_, rfl⟩)))

theorem hostRead_blockInv {s : State} (i : Fin 16) (hs : BlockInv s) : BlockInv (hostRead i s) := hs

/-- Acceptance (R241) finds the working registers and the port clear. -/
theorem accept_blockInv {s : State} (w : Word) (hs : BlockInv s) (hm : s.mode = .idle) : BlockInv (accept w s) := by
  have hport : s.port = none := by rw [hs.port_eq (by simp [hm]), expectedRequest, hm]
  have hwork : s.work = Work.zero := by
    rcases hs with h | ⟨-, -, hw, -, -⟩
    · rw [hm] at h
      cases h
    · simpa [workInv, hm] using hw
  exact (blockInv_busy rfl (by decide)).2
    ⟨⟨rfl, rfl, rfl, rfl, rfl⟩, beq_iff_eq.2 hwork, portInv_of_none hport rfl, rfl⟩

theorem hostWrite_blockInv {s : State} (i : Fin 16) (v : Word) (hs : BlockInv s) : BlockInv (hostWrite i v s) := by
  rcases hostWrite_cases i v s with ⟨hm, -, h⟩ | ⟨-, o, h⟩ | h
  · rw [h]
    exact accept_blockInv v hs hm
  · rw [h]
    exact hs
  · rw [h]
    exact hs

theorem resetBlock_blockInv (s : State) : BlockInv (resetBlock s) :=
  .inr ⟨rfl, (resultInv_of_rvalid_zero rfl).2 rfl, beq_self_eq_true _, rfl, rfl⟩

/-- Settles O58: each thing a step can do keeps the invariants. -/
theorem everyStepKeepsBlockInv : Obligations.EveryStepKeepsBlockInv := by
  intro s t hs h
  rcases step_cases h with ⟨l, rfl⟩ | ⟨i, l, rfl⟩ | ⟨i, v, l, rfl⟩ | ⟨s', rfl⟩ | ⟨hm, l, hrun⟩ | ⟨r, -, hdrain⟩
  · exact hs
  · exact hostRead_blockInv i hs
  · exact hostWrite_blockInv i v hs
  · exact resetBlock_blockInv s'
  · exact runCommand_blockInv ((blockInv_withEnv l).2 hs) hm hrun
  · exact drain_blockInv hs hdrain

end Sys2Proof.Machine
end

section
/-!
PROOF. The Euclid unit's function (R170 to R174): the count of calls is never used up, the result is the greatest common
divisor with its Bézout coefficients, and the coefficients are at most half of the other operand, so that the correction of R174
reads their sign from the top bit.
-/
namespace Sys2Proof.Machine

/-- `t` is `(g, x, y)` for `a` and `b` (R170): `g` is the gcd, and `x` and `y` are Bézout coefficients modulo 2^64, `(1, 0)` for
`b = 0` and else at most `b / 2` and, in a call with `b < a`, at most `a / 2`. -/
def EuclidResult (a b : Word) (t : Word × Word × Word) : Prop :=
  t.1.toNat = Nat.gcd a.toNat b.toNat ∧
    ∃ x y : Int, t.2.1 = BitVec.ofInt 64 x ∧ t.2.2 = BitVec.ofInt 64 y ∧
      a.toNat * x + b.toNat * y = (Nat.gcd a.toNat b.toNat : Int) ∧ (b = 0 → x = 1 ∧ y = 0) ∧
      (b ≠ 0 → 2 * |x| ≤ b.toNat ∧ (b.toNat < a.toNat → 2 * |y| ≤ a.toNat))

/-- The base case of R170. -/
theorem euclidResult_zero (a : Word) : EuclidResult a 0 (a, 1, 0) :=
  ⟨by simp, 1, 0, rfl, rfl, by simp, fun _ => ⟨rfl, rfl⟩, fun h => absurd rfl h⟩

/-- The word of the coefficient `x - q * y`. -/
theorem ofInt_sub_mul (q : Nat) (x y : Int) :
    BitVec.ofInt 64 x - BitVec.ofNat 64 q * BitVec.ofInt 64 y = BitVec.ofInt 64 (x - q * y) := by
  symm
  apply eq_sub_of_add_eq
  rw [← BitVec.ofInt_natCast, ← BitVec.ofInt_mul, ← BitVec.ofInt_add, sub_add_cancel]

/-- One division step of R170: from the result for `(b, a mod b)` to the one for `(a, b)`. -/
theorem euclidResult_step {a b : Word} {t : Word × Word × Word} (hb : b ≠ 0) (h : EuclidResult b (modOf a b) t) :
    EuclidResult a b (t.1, t.2.2, t.2.1 - quotOf a b * t.2.2) := by
  obtain ⟨hg, x, y, hx, hy, hbezout, hlast, hbound⟩ := h
  have hr : (modOf a b).toNat = a.toNat % b.toNat := modOf_toNat a hb
  have hpos : 0 < b.toNat := toNat_pos_of_ne_zero hb
  have hlt : a.toNat % b.toNat < b.toNat := Nat.mod_lt _ hpos
  have hdiv : (a.toNat : Int) = b.toNat * (a.toNat / b.toNat : Nat) + (a.toNat % b.toNat : Nat) := by
    exact_mod_cast (Nat.div_add_mod a.toNat b.toNat).symm
  have hgcd : Nat.gcd b.toNat (modOf a b).toNat = Nat.gcd a.toNat b.toNat := by
    rw [hr, Nat.gcd_comm, ← Nat.gcd_rec, Nat.gcd_comm]
  rw [hgcd, hr] at hbezout
  refine ⟨hg.trans hgcd, y, x - (a.toNat / b.toNat : Nat) * y, hy, ?_, ?_, fun h => absurd h hb, fun _ => ?_⟩
  · rw [hx, hy, quotOf, if_neg hb, ofInt_sub_mul]
  · rw [hdiv, ← hbezout]
    ring
  · by_cases hr0 : modOf a b = 0
    · obtain ⟨rfl, rfl⟩ := hlast hr0
      simp only [abs_zero, mul_zero, sub_zero, abs_one]
      omega
    · obtain ⟨hxle, hyle⟩ := hbound hr0
      rw [hr] at hxle hyle
      have hyb := hyle hlt
      refine ⟨hyb, fun _ => ?_⟩
      calc 2 * |x - (a.toNat / b.toNat : Nat) * y|
          ≤ 2 * (|x| + |((a.toNat / b.toNat : Nat) : Int) * y|) := by
            have := abs_sub x (((a.toNat / b.toNat : Nat) : Int) * y)
            omega
        _ = 2 * |x| + (a.toNat / b.toNat : Nat) * (2 * |y|) := by
            rw [abs_mul, Nat.abs_cast]
            ring
        _ ≤ (a.toNat % b.toNat : Nat) + (a.toNat / b.toNat : Nat) * (b.toNat : Int) :=
            add_le_add hxle (mul_le_mul_of_nonneg_left hyb (Int.natCast_nonneg _))
        _ = a.toNat := by
            rw [hdiv]
            ring

/-- A division step at least halves the product of a pair in falling order. -/
theorem two_mul_mul_mod_le {a b : Nat} (hb : 0 < b) (h : b < a) : 2 * (b * (a % b)) ≤ a * b := by
  have hr : a % b ≤ b := (Nat.mod_lt a hb).le
  have hsum : b + a % b ≤ a := by
    have hq : 1 ≤ a / b := (Nat.one_le_div_iff hb).2 h.le
    have := Nat.div_add_mod a b
    nlinarith
  nlinarith

/-- With more calls left than the binary length of the product, the recursion of R170 comes to its base case. -/
theorem egcdRec_result_of_lt (fuel k : Nat) (a b : Word) (hlt : b.toNat < a.toNat) (hk : a.toNat * b.toNat < 2 ^ k)
    (hfuel : k < fuel) : EuclidResult a b (egcdRec fuel a b) := by
  induction fuel generalizing k a b with
  | zero => omega
  | succ fuel ih =>
    unfold egcdRec
    by_cases hb : b = 0
    · rw [if_pos hb, hb]
      exact euclidResult_zero a
    · rw [if_neg hb]
      have hpos : 0 < b.toNat := toNat_pos_of_ne_zero hb
      have hmod : (modOf a b).toNat = a.toNat % b.toNat := modOf_toNat a hb
      have hhalf := two_mul_mul_mod_le hpos hlt
      cases k with
      | zero => nlinarith
      | succ k =>
        refine euclidResult_step hb (ih k b (modOf a b) ?_ ?_ (by omega))
        · rw [hmod]
          exact Nat.mod_lt _ hpos
        · rw [hmod]
          rw [pow_succ] at hk
          omega

/-- `ExtendedEuclid(a, b)` never uses up its count of calls (R170, R171). -/
theorem extendedEuclid_result (a b : Word) : EuclidResult a b (extendedEuclid a b) := by
  unfold extendedEuclid euclidFuel egcdRec
  by_cases hb : b = 0
  · rw [if_pos hb, hb]
    exact euclidResult_zero a
  · rw [if_neg hb]
    have hlt : (modOf a b).toNat < b.toNat := residue_lt _ hb
    refine euclidResult_step hb (egcdRec_result_of_lt 129 128 b (modOf a b) hlt ?_ (by omega))
    calc b.toNat * (modOf a b).toNat < 2 ^ 64 * 2 ^ 64 := Nat.mul_lt_mul'' b.isLt (modOf a b).isLt
      _ = 2 ^ 128 := by norm_num

/-- `GCD(a, b)` is the greatest common divisor (R171, R173). -/
theorem gcdOf_toNat (a b : Word) : (gcdOf a b).toNat = Nat.gcd a.toNat b.toNat := (extendedEuclid_result a b).1

/-- The correction of R174 brings a coefficient of at most half the modulus into the range below it. -/
theorem invFix_lt {x : Int} {m : Word} (hm : m ≠ 0) (hx : 2 * |x| ≤ m.toNat) :
    (invFix (BitVec.ofInt 64 x) m).toNat < m.toNat := by
  have hpos : 0 < m.toNat := toNat_pos_of_ne_zero hm
  have hmlt : m.toNat < 2 ^ 64 := m.isLt
  obtain ⟨hlo, hhi⟩ := abs_le.1 (show |x| ≤ (m.toNat : Int) / 2 by omega)
  have hint : (BitVec.ofInt 64 x).toInt = x := BitVec.toInt_ofInt_eq_self (by decide) (by omega) (by omega)
  have hsign : (BitVec.ofInt 64 x).getLsbD 63 = decide (x < 0) := by
    rw [← hint, ← BitVec.msb_eq_toInt, hint]
    rfl
  have hnat : (BitVec.ofInt 64 x).toNat = (x % (2 ^ 64 : Int)).toNat := BitVec.toNat_ofInt x
  unfold invFix
  by_cases hneg : x < 0
  · rw [hsign, if_pos (decide_eq_true hneg), BitVec.toNat_add, hnat]
    omega
  · rw [hsign, if_neg (by simpa using hneg), hnat]
    omega

/-- `ModInv(a, m)` lies below its modulus, whether or not `a` is coprime to it (the bound of R175). -/
theorem modInv_lt (a : Word) {m : Word} (hm : m ≠ 0) : (modInv a m).toNat < m.toNat := by
  obtain ⟨-, x, y, hx, -, -, -, hbound⟩ := extendedEuclid_result a m
  rw [modInv, hx]
  exact invFix_lt hm (hbound hm).1

end Sys2Proof.Machine
end

section
/-!
PROOF. Every step keeps `KeyInv` for a source that keeps its contract (R31, R74, R221): each answer lies in the range its
stage asked for, so the candidates lie in the window, the products of R213 do not overflow, and what `K_VERIFY` lets through is a
key tuple.
-/
namespace Sys2Proof.Machine

/-! ### The window and the products -/

theorem inWindow_iff {v : Word} : inWindow v = true ↔ 2 ^ 27 ≤ v.toNat ∧ v.toNat < 2 ^ 32 := by
  simp only [inWindow, decide_eq_true_eq, BitVec.le_def, BitVec.lt_def]
  exact Iff.rfl

/-- What steps S1 to S3 leave in the orchestrator's registers (R211 to R213): two different candidates of the window
and their two products. -/
structure ProductsReady (k : KgRegs) : Prop where
  p : inWindow k.p = true
  q : inWindow k.q = true
  ne : k.p ≠ k.q
  n : k.n = k.p * k.q
  phi : k.phi = (k.p - 1) * (k.q - 1)

theorem sub_one_toNat {v : Word} (h : 1 ≤ v.toNat) : (v - 1).toNat = v.toNat - 1 :=
  BitVec.toNat_sub_of_le (BitVec.le_def.2 h)

namespace ProductsReady

variable {k : KgRegs} (h : ProductsReady k)
include h

/-- The modulus is the exact product (R213). -/
theorem n_toNat : k.n.toNat = k.p.toNat * k.q.toNat := by
  have hp := inWindow_iff.1 h.p
  have hq := inWindow_iff.1 h.q
  rw [h.n]
  refine BitVec.toNat_mul_of_lt ?_
  calc k.p.toNat * k.q.toNat < 2 ^ 32 * 2 ^ 32 := Nat.mul_lt_mul'' hp.2 hq.2
    _ = 2 ^ 64 := by norm_num

/-- The totient register is the exact product (R213). -/
theorem phi_toNat : k.phi.toNat = (k.p.toNat - 1) * (k.q.toNat - 1) := by
  have hp := inWindow_iff.1 h.p
  have hq := inWindow_iff.1 h.q
  rw [h.phi, BitVec.toNat_mul_of_lt, sub_one_toNat (by omega), sub_one_toNat (by omega)]
  rw [sub_one_toNat (by omega), sub_one_toNat (by omega)]
  calc (k.p.toNat - 1) * (k.q.toNat - 1) < 2 ^ 32 * 2 ^ 32 := Nat.mul_lt_mul'' (by omega) (by omega)
    _ = 2 ^ 64 := by norm_num

/-- The request `(2, phi)` is never empty (R73). -/
theorem two_lt_phi : 2 < k.phi.toNat := by
  have hp := inWindow_iff.1 h.p
  have hq := inWindow_iff.1 h.q
  rw [h.phi_toNat]
  calc 2 < 3 * 3 := by norm_num
    _ ≤ (k.p.toNat - 1) * (k.q.toNat - 1) := Nat.mul_le_mul (by omega) (by omega)

/-- With an exponent in its range that is coprime to the totient and its verified inverse, the registers are a key tuple
(R31). -/
theorem keyTuple {e d : Word} (he2 : 2 ≤ e.toNat) (he : e.toNat < k.phi.toNat) (hgcd : gcdOf k.phi e = 1)
    (hd : d = modInv e k.phi) (hver : prodMod e d k.phi = 1) : keyTuple ⟨k.p, k.q, e, d, k.n⟩ = true := by
  have hphi : k.phi ≠ 0 := by
    intro h0
    rw [h0] at he
    exact absurd he (Nat.not_lt_zero _)
  have hcoprime : Nat.gcd k.phi.toNat e.toNat = 1 := by rw [← gcdOf_toNat, hgcd]; rfl
  have hdlt : d.toNat < k.phi.toNat := hd ▸ modInv_lt e hphi
  have hinverse : e.toNat * d.toNat % k.phi.toNat = 1 := by rw [← prodMod_toNat e d hphi, hver]; rfl
  have htotient : totient ⟨k.p, k.q, e, d, k.n⟩ = k.phi.toNat := h.phi_toNat.symm
  simp only [Machine.keyTuple, htotient, Bool.and_eq_true, decide_eq_true_eq]
  exact ⟨⟨⟨⟨⟨⟨⟨⟨h.p, h.q⟩, h.ne⟩, h.n_toNat⟩, he2⟩, he⟩, hcoprime⟩, hdlt⟩, hinverse⟩

end ProductsReady

/-! ### What a state needs for `KeyInv` -/

/-- Registers that are not all marked valid are no key tuple to speak of. -/
theorem keyInv_of_stageInv {s : State} (hrv : s.rvalid ≠ 0b11111) (h : stageInv s = true) : KeyInv s :=
  ⟨h, fun h31 => absurd h31 hrv⟩

/-- Outside `BUSY`, and before the command starts, the working registers are free. -/
theorem stageInv_of_not_running {s : State} (h : s.mode = .idle ∨ s.mode = .halt ∨ s.mode = .busy .accepted) :
    stageInv s = true := by
  rcases h with hm | hm | hm
  all_goals simp [stageInv, hm]

/-- A source that keeps its contract never makes the block divide by zero (R74). -/
theorem KeyInv.specified {s : State} (h : KeyInv s) : s.mode ≠ .busy .unspecified := by
  obtain ⟨hstage, -⟩ := h
  intro hm
  simp [stageInv, hm] at hstage

theorem endSuccess_keyInv {res : ResRegs} {rv : BitVec 5} (s : State) (h : rv ≠ 0b11111) :
    KeyInv (endSuccess res rv s) := keyInv_of_stageInv h (stageInv_of_not_running (.inl rfl))

theorem endFatal_keyInv {s : State} (c : ErrCode) (h : s.rvalid = 0) : KeyInv (endFatal c s) :=
  keyInv_of_stageInv (by simp [h]) (stageInv_of_not_running (.inr (.inl rfl)))

theorem endRecoverable_keyInv {s : State} (c : ErrCode) (h : s.rvalid = 0) : KeyInv (endRecoverable c s) :=
  keyInv_of_stageInv (by simp [h]) (stageInv_of_not_running (.inl rfl))

theorem present_keyInv {s : State} {lo hi : Word} {g : Stage} (h : s.rvalid = 0)
    (hg : stageInv (present lo hi g s) = true) : KeyInv (present lo hi g s) := keyInv_of_stageInv (by simp [h]) hg

theorem EndsAtOnce.keyInv {s t : State} (h : EndsAtOnce s t) (hrv : s.rvalid = 0) : KeyInv t := by
  rcases h with ⟨c, -, rfl⟩ | ⟨res, rv, rfl, -, hmarks⟩
  · exact endFatal_keyInv c hrv
  · exact endSuccess_keyInv s hmarks

/-! ### The primality unit -/

/-- A round keeps the candidate and `KEYGEN`'s registers, whatever the unit held before. -/
theorem sameTest_mrRound (a : Word) (w : Work) : SameTest w (mrRound a w).2 := by
  unfold mrRound
  split
  · exact sameTest_mrPow a w
  · exact (sameTest_mrPow a w).trans (mrCmp_spec _ _).2.1

theorem sameTest_mrDrawn (v : Word) (w : Work) : SameTest w (mrDrawn v w).2 := by
  unfold mrDrawn
  split
  · exact sameTest_mrRound v w
  · exact (sameTest_mrRound v w).trans (sameTest_mrNext _)

/-- The test of `n` up to its first draw works on `n` and keeps `KEYGEN`'s registers. -/
theorem mrBegin_keeps (n rep : Word) (w : Work) : (mrBegin n rep w).2.mr.n = n ∧ (mrBegin n rep w).2.kg = w.kg := by
  have hsame := (mrFixed_spec Config.mrBases (mrLoad n rep w) (mrLoad_spec n rep w).1).1
  exact ⟨hsame.n, hsame.kg⟩

/-- A base is drawn only when no fixed base accepts (R195). -/
theorem fixedBaseAccepts_of_draw {n rep : Word} {w : Work} (h : (mrBegin n rep w).1 = .draw) :
    fixedBaseAccepts n = false := by
  by_contra hany
  have hyes : (mrBegin n rep w).1 = .yes :=
    (mrFixed_spec Config.mrBases (mrLoad n rep w) (mrLoad_spec n rep w).1).2.1 (Bool.not_eq_false _ ▸ hany)
  rw [hyes] at h
  cases h

theorem fixedBaseAccepts_two_three : fixedBaseAccepts 2 = true ∧ fixedBaseAccepts 3 = true := by decide

/-- The candidates 2 and 3 pass a fixed base, so the request `(2, N - 1)` is never empty (R73, R199). -/
theorem four_le_of_draw {n rep : Word} {w : Work} (h0 : n ≠ 0) (h1 : n ≠ 1) (h : (mrBegin n rep w).1 = .draw) :
    4 ≤ n := by
  have hnone := fixedBaseAccepts_of_draw h
  have h2 : n ≠ 2 := by rintro rfl; rw [fixedBaseAccepts_two_three.1] at hnone; cases hnone
  have h3 : n ≠ 3 := by rintro rfl; rw [fixedBaseAccepts_two_three.2] at hnone; cases hnone
  bv_omega

/-- `ISPRIME` goes on from its verdict to an end or to a wait with the candidate it has. -/
theorem isprimeFrom_keyInv {s : State} (v : Verdict) (hrv : s.rvalid = 0) (h : v = .draw → 4 ≤ s.work.mr.n) :
    KeyInv (isprimeFrom v s) := by
  cases v with
  | yes => exact endSuccess_keyInv s (by decide)
  | no => exact endSuccess_keyInv s (by decide)
  | draw => exact present_keyInv hrv (decide_eq_true (h rfl))

/-! ### Key generation between two draws -/

/-- A rejection ends the command or goes to the retry, which sees one more attempt and nothing else new (R217). -/
theorem reject_keyInv {par : Config.Params} {retry : State → State} {s : State} (hrv : s.rvalid = 0)
    (h : ∀ n, KeyInv (retry (s.withKg { s.work.kg with attempts := n }))) : KeyInv (reject par retry s) := by
  rcases reject_cases par retry s with hend | hretry
  · rw [hend]
    exact endRecoverable_keyInv _ hrv
  · rw [hretry]
    exact h _

theorem drawP_keyInv {s : State} (hrv : s.rvalid = 0) : KeyInv (drawP s) := present_keyInv hrv rfl

theorem drawQ_keyInv {s : State} (hrv : s.rvalid = 0) (hp : inWindow s.work.kg.p = true) : KeyInv (drawQ s) :=
  present_keyInv hrv hp

/-- While `K_DRAWE` waits the products stand in the registers (R213, R214). -/
theorem stageInv_drawE {s : State} (hm : s.mode = .busy .drawE) : stageInv s = true ↔ ProductsReady s.work.kg := by
  simp only [stageInv, hm, Bool.and_eq_true, beq_iff_eq, decide_eq_true_eq]
  exact ⟨fun ⟨⟨⟨⟨hp, hq⟩, hne⟩, hn⟩, hphi⟩ => ⟨hp, hq, hne, hn, hphi⟩, fun h => ⟨⟨⟨⟨h.p, h.q⟩, h.ne⟩, h.n⟩, h.phi⟩⟩

theorem drawE_keyInv {s : State} (hrv : s.rvalid = 0) (h : ProductsReady s.work.kg) : KeyInv (drawE s) :=
  present_keyInv hrv ((stageInv_drawE rfl).2 h)

/-- After the test of `p` (R211). -/
theorem afterTestP_keyInv (par : Config.Params) (v : Verdict) {s : State} (hrv : s.rvalid = 0)
    (hp : inWindow s.work.kg.p = true) (hn : s.work.mr.n = s.work.kg.p) : KeyInv (afterTestP par v s) := by
  cases v with
  | yes => exact drawQ_keyInv hrv hp
  | no => exact reject_keyInv hrv fun _ => drawP_keyInv hrv
  | draw => exact present_keyInv hrv (Bool.and_eq_true_iff.2 ⟨hp, beq_iff_eq.2 hn⟩)

/-- `K_PROD` (R213) makes the products of two different candidates. -/
theorem productStep_keyInv {s : State} (hrv : s.rvalid = 0) (hp : inWindow s.work.kg.p = true)
    (hq : inWindow s.work.kg.q = true) (hne : s.work.kg.q ≠ s.work.kg.p) : KeyInv (productStep s) :=
  drawE_keyInv hrv ⟨hp, hq, hne.symm, rfl, rfl⟩

/-- After the test of `q` (R212). -/
theorem afterTestQ_keyInv (par : Config.Params) (v : Verdict) {s : State} (hrv : s.rvalid = 0)
    (hp : inWindow s.work.kg.p = true) (hq : inWindow s.work.kg.q = true) (hn : s.work.mr.n = s.work.kg.q) :
    KeyInv (afterTestQ par v s) := by
  have hretry : KeyInv (reject par drawQ s) := reject_keyInv hrv fun _ => drawQ_keyInv hrv hp
  cases v with
  | yes =>
    by_cases heq : s.work.kg.q = s.work.kg.p
    · rw [afterTestQ, if_pos heq]
      exact hretry
    · rw [afterTestQ, if_neg heq]
      exact productStep_keyInv hrv hp hq heq
  | no => exact hretry
  | draw => exact present_keyInv hrv (Bool.and_eq_true_iff.2 ⟨Bool.and_eq_true_iff.2 ⟨hp, hq⟩, beq_iff_eq.2 hn⟩)

/-- The test of a candidate of the window comes to its verdict or its first draw on that candidate. -/
theorem testCandidate_keyInv {par : Config.Params} {c : Word} {after : Verdict → State → State} {s t : State}
    (hc : inWindow c = true)
    (hafter : ∀ v w, w.mr.n = c → w.kg = s.work.kg → KeyInv (after v (s.withWork w)))
    (h : testCandidate par c after s = .next t) : KeyInv t := by
  have hlow : 2 ^ 27 ≤ c.toNat := (inWindow_iff.1 hc).1
  have h0 : c ≠ 0 := by rintro rfl; exact absurd hlow (by decide)
  have h1 : c ≠ 1 := by rintro rfl; exact absurd hlow (by decide)
  rw [testCandidate, if_neg h0, if_neg h1] at h
  cases h
  obtain ⟨hn, hkg⟩ := mrBegin_keeps c par.kgRepeat s.work
  exact hafter _ _ hn hkg

/-- `K_VERIFY` (R216) lets only key tuples through. -/
theorem verifyStep_keyInv {par : Config.Params} {s t : State} (hrv : s.rvalid = 0) (hk : ProductsReady s.work.kg)
    (he2 : 2 ≤ s.work.kg.e.toNat) (he : s.work.kg.e.toNat < s.work.kg.phi.toNat)
    (hgcd : gcdOf s.work.kg.phi s.work.kg.e = 1) (hd : s.work.kg.d = modInv s.work.kg.e s.work.kg.phi)
    (h : verifyStep par s = .next t) : KeyInv t := by
  have hphi : s.work.kg.phi ≠ 0 := by
    intro h0
    rw [h0] at he
    exact absurd he (Nat.not_lt_zero _)
  rw [verifyStep, if_neg hphi] at h
  split at h
  next hver =>
    cases h
    exact ⟨stageInv_of_not_running (.inl rfl), fun _ => hk.keyTuple he2 he hgcd hd hver⟩
  · cases h
    exact reject_keyInv hrv fun _ => drawP_keyInv hrv

/-- `K_INV` (R215) puts the inverse of the exponent into `d`, and the products stay. -/
theorem verifyStep_invertStep_keyInv {par : Config.Params} {s t : State} (hrv : s.rvalid = 0)
    (hk : ProductsReady s.work.kg) (he2 : 2 ≤ s.work.kg.e.toNat) (he : s.work.kg.e.toNat < s.work.kg.phi.toNat)
    (hgcd : gcdOf s.work.kg.phi s.work.kg.e = 1) (h : verifyStep par (invertStep s) = .next t) : KeyInv t := by
  have hk' : ProductsReady (invertStep s).work.kg := ⟨hk.p, hk.q, hk.ne, hk.n, hk.phi⟩
  exact verifyStep_keyInv (s := invertStep s) hrv hk' he2 he hgcd rfl h

/-- `K_DRAWE` takes an exponent of its range (R214). -/
theorem eAnswer_keyInv {par : Config.Params} {v : Word} {s t : State} (hrv : s.rvalid = 0)
    (hk : ProductsReady s.work.kg) (hv2 : 2 ≤ v.toNat) (hv : v.toNat < s.work.kg.phi.toNat)
    (h : eAnswer par v s = .next t) : KeyInv t := by
  have hk' : ProductsReady { s.work.kg with e := v } := ⟨hk.p, hk.q, hk.ne, hk.n, hk.phi⟩
  unfold eAnswer at h
  simp only at h
  split at h
  next hgcd =>
    refine verifyStep_invertStep_keyInv ?_ ?_ ?_ ?_ ?_ h
    exacts [hrv, hk', hv2, hv, hgcd]
  · cases h
    exact reject_keyInv hrv fun _ => drawE_keyInv hrv ⟨hk'.p, hk'.q, hk'.ne, hk'.n, hk'.phi⟩

/-! ### Answers -/

/-- The next request does not matter to the contract: after an answer the trace keeps it only if it did with the answer. -/
theorem keepsContract_of_takeAnswer {par : Config.Params} {v : Word} {s t : State} (h : takeAnswer par v s = .next t)
    (ht : keepsContract t.trace = true) : keepsContract (.answered v :: s.trace) = true := by
  rcases takeAnswer_cases par v s t h with ⟨-, w, hstep⟩ | ⟨g, -, -, w, hstep⟩ | ⟨-, rfl⟩
  · rcases hstep with rfl | rfl | rfl
    all_goals exact ht
  · rcases hstep with rfl | rfl | rfl | rfl | rfl | rfl | rfl | rfl | rfl
    all_goals exact ht
  · exact ht

/-- The contract was kept before an answer if it is kept with it. -/
theorem keepsContract_before {v : Word} {tr : List Obs} (h : keepsContract (.answered v :: tr) = true) :
    keepsContract tr = true := (Bool.and_eq_true_iff.1 h).2

/-- A kept contract puts the answer in the range of the newest request (R70). -/
theorem allows_of_keepsContract {v : Word} {tr : List Obs} {r : Request} (hr : lastRequest tr = some r)
    (h : keepsContract (.answered v :: tr) = true) : r.allows v = true := by
  simpa [hr] using (Bool.and_eq_true_iff.1 h).1

/-- An answer within the range of a window request is a value of the window (R211, R212). -/
theorem inWindow_of_allows {s : State} {v : Word} {r : Request} (hm : s.mode = .busy .drawP ∨ s.mode = .busy .drawQ)
    (hr : expectedRequest s = some r) (hv : r.allows v = true) : inWindow v = true := by
  have hwindow : r = ⟨Config.winLo, Config.winHi⟩ := by
    rcases hm with hm | hm
    all_goals simpa [expectedRequest, hm] using hr.symm
  rw [hwindow] at hv
  exact decide_eq_true ((of_decide_eq_true hv) (by decide))

/-- Taking an answer within its range keeps the invariant. -/
theorem takeAnswer_keyInv {par : Config.Params} {v : Word} {s t : State} {r : Request} (hs : BlockInv s)
    (hk : KeyInv s) (hr : s.port = some r) (hv : r.allows v = true) (h : takeAnswer par v s = .next t) : KeyInv t := by
  have hspec := hk.specified
  obtain ⟨hstage, -⟩ := hk
  have hexp : expectedRequest s = some r := (hs.port_eq hspec).symm.trans hr
  cases hm : s.mode with
  | idle => simp [expectedRequest, hm] at hexp
  | halt => simp [expectedRequest, hm] at hexp
  | busy g =>
    obtain ⟨hu, -, -, -⟩ := (blockInv_busy hm (fun hg => hspec (hg ▸ hm))).1 hs
    have hrv : (takeFromPort v s).rvalid = 0 := hu.rvalid
    unfold takeAnswer at h
    rw [hm] at h
    cases g with
    | accepted => simp [expectedRequest, hm] at hexp
    | decomposing => simp [expectedRequest, hm] at hexp
    | unspecified => exact absurd hm hspec
    | isPrimeWait =>
      cases h
      have hn : 4 ≤ s.work.mr.n := by simpa [stageInv, hm] using hstage
      exact isprimeFrom_keyInv _ hrv fun _ => (sameTest_mrDrawn v s.work).n.symm ▸ hn
    | drawP =>
      have hwin : inWindow v = true := inWindow_of_allows (.inl hm) hexp hv
      refine testCandidate_keyInv hwin (fun u w hn hkg => ?_) h
      exact afterTestP_keyInv par u hrv (by simpa [hkg] using hwin) (by simpa [hkg] using hn)
    | testPWait =>
      cases h
      have hst : inWindow s.work.kg.p = true ∧ s.work.mr.n = s.work.kg.p := by simpa [stageInv, hm] using hstage
      have hsame := sameTest_mrDrawn v s.work
      exact afterTestP_keyInv par _ hrv (hsame.kg.symm ▸ hst.1) (hsame.n.trans (hst.2.trans (by rw [← hsame.kg]; rfl)))
    | drawQ =>
      have hp : inWindow s.work.kg.p = true := by simpa [stageInv, hm] using hstage
      have hwin : inWindow v = true := inWindow_of_allows (.inr hm) hexp hv
      refine testCandidate_keyInv hwin (fun u w hn hkg => ?_) h
      exact afterTestQ_keyInv par u hrv (by simpa [hkg] using hp) (by simpa [hkg] using hwin) (by simpa [hkg] using hn)
    | testQWait =>
      cases h
      have hst : (inWindow s.work.kg.p = true ∧ inWindow s.work.kg.q = true) ∧ s.work.mr.n = s.work.kg.q := by
        simpa [stageInv, hm] using hstage
      obtain ⟨⟨hp, hq⟩, hn⟩ := hst
      have hsame := sameTest_mrDrawn v s.work
      exact afterTestQ_keyInv par _ hrv (hsame.kg.symm ▸ hp) (hsame.kg.symm ▸ hq)
        (hsame.n.trans (hn.trans (by rw [← hsame.kg]; rfl)))
    | drawE =>
      have hready := (stageInv_drawE hm).1 hstage
      simp only [expectedRequest, hm, Option.some.injEq] at hexp
      subst hexp
      have hrange := (of_decide_eq_true hv) (BitVec.lt_def.2 hready.two_lt_phi)
      exact eAnswer_keyInv hrv hready (BitVec.le_def.1 hrange.1) (BitVec.lt_def.1 hrange.2) h

/-- Both invariants, the second as long as the source has kept its contract. -/
def ContractInv (s : State) : Prop := BlockInv s ∧ (keepsContract s.trace = true → KeyInv s)

theorem takeAnswer_contractInv {par : Config.Params} {v : Word} {s t : State} {r : Request} (hs : ContractInv s)
    (hr : s.port = some r) (h : takeAnswer par v s = .next t) : ContractInv t := by
  obtain ⟨hblock, hkey⟩ := hs
  refine ⟨takeAnswer_blockInv hblock hr h, fun ht => ?_⟩
  have hanswered := keepsContract_of_takeAnswer h ht
  have hk := hkey (keepsContract_before hanswered)
  have hv := allows_of_keepsContract (hblock.lastRequest_eq hk.specified hr) hanswered
  exact takeAnswer_keyInv hblock hk hr hv h

theorem drain_contractInv {par : Config.Params} {l : List EnvEvent} {s t : State} (hs : ContractInv s)
    (h : drain par l s = .next t) : ContractInv t :=
  drain_keeps par ContractInv (fun _ _ hx => hx) (fun _ _ _ _ hx hr => takeAnswer_contractInv hx hr) l s t hs h

/-! ### The step -/

/-- `ISPRIME` on a candidate that is not refused meets both invariants up to its first draw. -/
theorem isprimeBegin_contractInv {s : State} (hu : Unwritten s) (hc : s.cmd = encode .isprime) (h0 : s.op.o0 ≠ 0)
    (h1 : s.op.o0 ≠ 1) : ContractInv (isprimeBegin s) := by
  obtain ⟨w, hbegin⟩ := isprimeBegin_step s
  refine ⟨hbegin.blockInv hu hc, fun _ => isprimeFrom_keyInv _ hu.rvalid fun hdraw => ?_⟩
  rw [withWork_work, (mrBegin_keeps _ _ _).1]
  exact four_le_of_draw h0 h1 hdraw

theorem keygenBegin_contractInv {s : State} (hu : Unwritten s) (hc : s.cmd = encode .keygen) (hp : s.port = none) :
    ContractInv (keygenBegin s) := by
  obtain ⟨w, hbegin⟩ := keygenBegin_step s
  exact ⟨hbegin.blockInv hu hc hp, fun _ => drawP_keyInv hu.rvalid⟩

theorem exec_keyInv {i : Instr} {s t : State} (hu : Unwritten s) (hp : s.port = none) (hc : s.cmd = encode i)
    (h : exec i s = .next t) (ht : keepsContract t.trace = true) : KeyInv t := by
  rcases exec_cases h with hend | ⟨rfl, rfl⟩ | ⟨rfl, h0, h1, hdrain⟩ | ⟨rfl, hdrain⟩
  · exact hend.keyInv hu.rvalid
  · exact endSuccess_keyInv _ (by decide)
  · exact (drain_contractInv (isprimeBegin_contractInv hu hc h0 h1) hdrain).2 ht
  · exact (drain_contractInv (keygenBegin_contractInv hu hc hp) hdrain).2 ht

theorem runCommand_keyInv {s t : State} (hs : BlockInv s) (hm : s.mode = .busy .accepted)
    (h : runCommand s = .next t) (ht : keepsContract t.trace = true) : KeyInv t := by
  obtain ⟨hu, hp⟩ := hs.of_accepted hm
  rcases runCommand_cases h with rfl | ⟨i, hc, hexec⟩
  · exact endFatal_keyInv _ hu.rvalid
  · exact exec_keyInv hu hp hc hexec ht

theorem hostWrite_keyInv {s : State} (i : Fin 16) (v : Word) (hs : KeyInv s) : KeyInv (hostWrite i v s) := by
  rcases hostWrite_cases i v s with ⟨-, -, h⟩ | ⟨-, o, h⟩ | h
  · rw [h]
    exact keyInv_of_stageInv (s := accept v s) (by simp) (stageInv_of_not_running (.inr (.inr rfl)))
  · rw [h]
    exact hs
  · rw [h]
    exact hs

theorem resetBlock_keyInv (s : State) : KeyInv (resetBlock s) :=
  keyInv_of_stageInv (s := resetBlock s) (by simp [State.reset]) (stageInv_of_not_running (.inl rfl))

/-- Settles O59: a host access and a reset change no running command; a command that runs or takes answers keeps both
invariants as long as the answers keep the contract. -/
theorem everyStepKeepsKeyInv : Obligations.EveryStepKeepsKeyInv := by
  intro s t hs hk h ht
  rcases step_cases h with ⟨l, rfl⟩ | ⟨i, l, rfl⟩ | ⟨i, v, l, rfl⟩ | ⟨s', rfl⟩ | ⟨hm, l, hrun⟩ | ⟨r, -, hdrain⟩
  · exact hk
  · exact hk
  · exact hostWrite_keyInv i v hk
  · exact resetBlock_keyInv s'
  · exact runCommand_keyInv ((blockInv_withEnv l).2 hs) hm hrun ht
  · exact (drain_contractInv ⟨hs, fun _ => hk⟩ hdrain).2 ht

end Sys2Proof.Machine
end

section
/-!
PROOF. The host's accesses, one by one (R60, R63 to R65).
-/
namespace Sys2Proof.Machine

/-- A write that stands next is performed (R66). -/
theorem step_write {s : State} {i : Fin 16} {v : Word} {rest : List EnvEvent} (h : s.env = .write i v :: rest) :
    step s = .next (hostWrite i v { s with env := rest }) := by
  rw [step, h]

/-- A read that stands next is performed (R66). -/
theorem step_read {s : State} {i : Fin 16} {rest : List EnvEvent} (h : s.env = .read i :: rest) :
    step s = .next (hostRead i { s with env := rest }) := by
  rw [step, h]

/-- A write to any index but `CMD` and the operand registers is ignored (R65). -/
theorem writeIdle_of_unwritable {i : Fin 16} (v : Word) (s : State) (h0 : i ≠ 0) (h2 : i ≠ 2) (h3 : i ≠ 3) (h4 : i ≠ 4) :
    writeIdle i v s = s := by
  unfold writeIdle
  split
  next hi => exact absurd (Fin.ext hi) h0
  next hi => exact absurd (Fin.ext hi) h2
  next hi => exact absurd (Fin.ext hi) h3
  next hi => exact absurd (Fin.ext hi) h4
  · rfl

/-- Settles O7: outside `IDLE` a write is ignored, and in `IDLE` the index decides. -/
theorem hostWritesByMode : Obligations.HostWritesByMode := by
  intro s i v rest _ henv
  rw [step_write henv]
  refine ⟨fun hm => congrArg _ (hostWrite_of_not_idle i v { s with env := rest } hm), fun hm => ?_⟩
  rw [hostWrite_of_idle i v { s with env := rest } hm]
  refine ⟨?_, ?_, ?_, ?_, fun h0 h2 h3 h4 => congrArg _ (writeIdle_of_unwritable v _ h0 h2 h3 h4)⟩
  all_goals
    rintro rfl
    rfl

/-- The register space as the table of R60. -/
theorem regRead_eq_getD (i : Fin 16) (s : State) :
    regRead i s = [s.cmd, s.status, s.op.o0, s.op.o1, s.op.o2, 0, 0, 0, s.res.r0, s.res.r1, s.res.r2, s.res.r3, s.res.r4,
      0, 0, 0].getD i.val 0 := by
  fin_cases i
  all_goals rfl

/-- Settles O8: a read returns its entry of the table, and only the trace is new. -/
theorem hostReadsReturnTheRegister : Obligations.HostReadsReturnTheRegister := by
  intro s i rest hm henv
  rw [step_read henv, hostRead, hostReadValue_of_specified i { s with env := rest } hm, regRead_eq_getD]
  rfl

end Sys2Proof.Machine
end

section
/-!
PROOF. How a command ends or goes on: the commands that make no draw have ended (R71, R242), every function of the sequencer
has a next state (R74, R122, R221), and `ISPRIME` never divides by zero.
-/
namespace Sys2Proof.Machine

/-! ### Commands that make no draw -/

/-- The end of a command that has drawn nothing (R71, R242). -/
structure EndedWithoutDraw (s t : State) : Prop where
  trace : t.trace = s.trace
  env : t.env = s.env
  port : t.port = none
  work : t.work = Work.zero
  mode : t.mode = .idle ∨ t.mode = .halt
  done : t.done = true

theorem EndsAtOnce.endedWithoutDraw {s t : State} (h : EndsAtOnce s t) : EndedWithoutDraw s t := by
  rcases h with ⟨c, -, rfl⟩ | ⟨res, rv, rfl, -, -⟩
  · exact ⟨rfl, rfl, rfl, rfl, .inr rfl, rfl⟩
  · exact ⟨rfl, rfl, rfl, rfl, .inl rfl, rfl⟩

/-- A command has ended without a draw, or it is one of the two that draw and has run over its answers. -/
theorem exec_ends_or_drains {i : Instr} {s t : State} (h : exec i s = .next t) :
    EndedWithoutDraw s t ∨
      (i = .isprime ∧ s.op.o0 ≠ 0 ∧ s.op.o0 ≠ 1 ∧ drain Config.params s.env (isprimeBegin s) = .next t) ∨
      (i = .keygen ∧ drain Config.params s.env (keygenBegin s) = .next t) := by
  rcases exec_cases h with hend | ⟨-, rfl⟩ | hdraws
  · exact .inl hend.endedWithoutDraw
  · exact .inl ⟨rfl, rfl, rfl, rfl, .inl rfl, rfl⟩
  · exact .inr hdraws

theorem EndedWithoutDraw.busyBit {s t : State} (h : EndedWithoutDraw s t) : t.busyBit = false := by
  rcases h.mode with hm | hm
  all_goals simp [State.busyBit, hm]

/-- Settles O54: such a command has ended. -/
theorem otherCommandsMakeNoDraw : Obligations.OtherCommandsMakeNoDraw := by
  intro i s t hdraw h
  rcases exec_ends_or_drains h with hend | ⟨rfl, -⟩ | ⟨rfl, -⟩
  · exact ⟨hend.trace, hend.env, hend.port, hend.work, hend.busyBit, hend.done⟩
  · cases hdraw
  · cases hdraw

/-! ### Next states -/

/-- The result is a next state. -/
def GoesOn (r : Result) : Prop := ∃ t, r = .next t

theorem goesOn_next (t : State) : GoesOn (.next t) := ⟨t, rfl⟩

/-- A choice between two results that are next states is one. -/
theorem goesOn_ite {p : Prop} [Decidable p] {a b : Result} (ha : GoesOn a) (hb : GoesOn b) :
    GoesOn (if p then a else b) := by
  split
  · exact ha
  · exact hb

theorem testCandidate_goesOn (par : Config.Params) (c : Word) (after : Verdict → State → State) (s : State) :
    GoesOn (testCandidate par c after s) := goesOn_ite (goesOn_next _) (goesOn_ite (goesOn_next _) (goesOn_next _))

theorem verifyStep_goesOn (par : Config.Params) (s : State) : GoesOn (verifyStep par s) :=
  goesOn_ite (goesOn_next _) (goesOn_ite (goesOn_next _) (goesOn_next _))

theorem eAnswer_goesOn (par : Config.Params) (v : Word) (s : State) : GoesOn (eAnswer par v s) :=
  goesOn_ite (verifyStep_goesOn par _) (goesOn_next _)

/-- An answer leads on, whatever it is and whatever the block does (R74). -/
theorem takeAnswer_goesOn (par : Config.Params) (v : Word) (s : State) : GoesOn (takeAnswer par v s) := by
  unfold takeAnswer
  split
  case h_2 => exact testCandidate_goesOn par v _ _
  case h_4 => exact testCandidate_goesOn par v _ _
  case h_6 => exact eAnswer_goesOn par v _
  all_goals exact goesOn_next _

theorem drain_goesOn (par : Config.Params) (l : List EnvEvent) (s : State) : GoesOn (drain par l s) := by
  induction l generalizing s with
  | nil => exact goesOn_next _
  | cons ev rest ih =>
    unfold drain
    split
    next v r _ =>
      obtain ⟨s', htake⟩ := takeAnswer_goesOn par v s
      rw [htake]
      exact ih s'
    · exact goesOn_next _

theorem execRsaxf_goesOn (s : State) : GoesOn (execRsaxf s) := by
  unfold execRsaxf
  split
  all_goals exact goesOn_next _

/-- Every command leads on: it checks its operands and ends, or runs over its answers. -/
theorem exec_goesOn (i : Instr) (s : State) : GoesOn (exec i s) := by
  cases i with
  | mod => exact goesOn_ite (goesOn_next _) (goesOn_next _)
  | quot => exact goesOn_ite (goesOn_next _) (goesOn_next _)
  | modadd => exact goesOn_ite (goesOn_next _) (goesOn_next _)
  | modsub => exact goesOn_ite (goesOn_next _) (goesOn_next _)
  | modmul => exact goesOn_ite (goesOn_next _) (goesOn_next _)
  | modpow => exact goesOn_ite (goesOn_next _) (goesOn_next _)
  | egcd => exact goesOn_next _
  | gcd => exact goesOn_next _
  | modinv => exact goesOn_ite (goesOn_next _) (goesOn_next _)
  | isprime => exact goesOn_ite (goesOn_next _) (goesOn_ite (goesOn_next _) (drain_goesOn _ _ _))
  | keygen => exact drain_goesOn _ _ _
  | rsaxf => exact execRsaxf_goesOn s
  | clr => exact goesOn_next _

theorem runCommand_goesOn (s : State) : GoesOn (runCommand s) := by
  unfold runCommand
  split
  · exact exec_goesOn _ s
  · exact goesOn_next _

theorem sequencer_goesOn (s : State) : GoesOn (sequencer s) := by
  by_cases hm : s.mode = .busy .accepted
  · rw [sequencer_of_accepted s hm]
    exact runCommand_goesOn s
  · rw [sequencer_of_not_accepted s hm]
    exact goesOn_next s

theorem answerEvent_goesOn (s : State) (rest : List EnvEvent) : GoesOn (answerEvent s rest) := by
  unfold answerEvent
  split
  · exact drain_goesOn _ _ _
  · exact goesOn_next _

/-- Every event leads on. -/
theorem step_goesOn (s : State) : GoesOn (step s) := by
  unfold step
  split
  case h_1 => exact sequencer_goesOn s
  case h_5 rest _ => exact sequencer_goesOn { s with env := rest }
  case h_6 rest _ => exact answerEvent_goesOn s rest
  all_goals exact goesOn_next _

/-! ### `ISPRIME` keeps a specified behaviour -/

/-- `ISPRIME` at `t` has ended in a success or waits in `T_WAIT` (R198). -/
def IsprimeEndsOrWaits (t : State) : Prop := (t.mode = .idle ∧ t.port = none) ∨ t.mode = .busy .isPrimeWait

theorem IsprimeStep.endsOrWaits {s t : State} {w : Work} (h : IsprimeStep s w t) : IsprimeEndsOrWaits t := by
  rcases h with rfl | rfl | rfl
  · exact .inl ⟨rfl, rfl⟩
  · exact .inl ⟨rfl, rfl⟩
  · exact .inr rfl

/-- Every answer leads `ISPRIME` to an end or to the next wait (R195). -/
theorem drain_isprimeEndsOrWaits {par : Config.Params} {l : List EnvEvent} {s t : State} (hs : IsprimeEndsOrWaits s)
    (h : drain par l s = .next t) : IsprimeEndsOrWaits t := by
  refine drain_keeps par IsprimeEndsOrWaits (fun _ _ hx => hx) ?_ l s t hs h
  intro x v r x' hx hport htake
  have hmode : x.mode = .busy .isPrimeWait := hx.resolve_left fun hend => by rw [hend.2] at hport; cases hport
  rcases takeAnswer_cases par v x x' htake with ⟨-, w, hstep⟩ | ⟨g, hg, hkg, -⟩ | ⟨hno, -⟩
  · exact hstep.endsOrWaits
  · rw [hmode] at hg
    cases hg
    cases hkg
  · exact absurd rfl (hno _ hmode).1

/-- Settles O21: every function of the sequencer goes on, and only `KEYGEN` runs over its answers into the stage. -/
theorem everyStepHasANextState : Obligations.EveryStepHasANextState := by
  refine ⟨exec_goesOn, step_goesOn, fun i s t h hm => ?_⟩
  rcases exec_ends_or_drains h with hend | ⟨-, -, -, hdrain⟩ | ⟨hi, -⟩
  · rcases hend.mode with hm' | hm'
    all_goals rw [hm'] at hm; cases hm
  · obtain ⟨w, hbegin⟩ := isprimeBegin_step s
    rcases drain_isprimeEndsOrWaits hbegin.endsOrWaits hdrain with ⟨hm', -⟩ | hm'
    all_goals rw [hm'] at hm; cases hm
  · exact hi

end Sys2Proof.Machine
end

section
/-!
PROOF. The random source's answers (R69 to R74): with which request a command waits, that no request is
empty, and how a waiting command resumes.
-/
namespace Sys2Proof.Machine

/-! ### The first request -/

/-- A base is drawn when no fixed base accepts and more rounds are planned than there are fixed bases (R192, R195). -/
theorem mrBegin_eq_draw {n rep : Word} (w : Work) (hnone : fixedBaseAccepts n = false) (hrep : 7 < rep.toNat) :
    (mrBegin n rep w).1 = .draw := by
  have hrounds : (mrLoad n rep w).mr.rounds = rep := if_neg (Nat.not_le.2 hrep)
  have hverdict := ((mrFixed_spec Config.mrBases (mrLoad n rep w) (mrLoad_spec n rep w).1).2.2 hnone).2
  rw [hrounds] at hverdict
  exact hverdict.trans (if_pos hrep)

/-- `ISPRIME` that draws asks for its first base from the range of the candidate (R195). -/
theorem isprimeBegin_of_draw {s : State} (h : (mrBegin s.op.o0 s.op.o1 s.work).1 = .draw) :
    isprimeBegin s = present 2 (s.op.o0 - 1) .isPrimeWait (s.withWork (mrBegin s.op.o0 s.op.o1 s.work).2) := by
  have hbegin : isprimeBegin s = presentBase .isPrimeWait (s.withWork (mrBegin s.op.o0 s.op.o1 s.work).2) :=
    congrArg (isprimeFrom · _) h
  rw [hbegin, presentBase, withWork_work, (mrBegin_keeps _ _ _).1]

/-- `ISPRIME` runs on a candidate that it does not refuse (R197). -/
theorem execIsprime_of_not_refused {s : State} (h0 : s.op.o0 ≠ 0) (h1 : s.op.o0 ≠ 1) :
    exec .isprime s = drain Config.params s.env (isprimeBegin s) :=
  (if_neg h0).trans (if_neg h1)

/-- A request presented after work on the working registers alone leaves the block waiting, and all a host can read as it
was, if no answer stands next (R26, R72). -/
theorem waitsWith_of_drain_present {s : State} (h : ∀ v rest, s.env ≠ .answer v :: rest) (lo hi : Word) (g : Stage)
    (w : Work) : WaitsWith g ⟨lo, hi⟩ s (drain Config.params s.env (present lo hi g (s.withWork w))) :=
  ⟨_, drain_stops _ _ _ h, rfl, rfl, rfl, rfl, rfl, rfl, rfl, rfl, rfl, rfl, rfl⟩

/-- Settles O44: the two first requests, with no answer to take. -/
theorem commandsWaitForTheSource : Obligations.CommandsWaitForTheSource := by
  intro s henv
  refine ⟨waitsWith_of_drain_present henv _ _ _ _, fun htwo hnone hrep => ?_⟩
  have h0 : s.op.o0 ≠ 0 := fun h => by simp [h] at htwo
  have h1 : s.op.o0 ≠ 1 := fun h => by simp [h] at htwo
  rw [execIsprime_of_not_refused h0 h1, isprimeBegin_of_draw (mrBegin_eq_draw s.work hnone hrep)]
  exact waitsWith_of_drain_present henv _ _ _ _

/-! ### Requests are never empty -/

/-- The range of a drawn base holds 2 for a candidate from 4 on (R199). -/
theorem two_lt_sub_one {n : Word} (h : 4 ≤ n.toNat) : 2 < n - 1 := by
  rw [BitVec.lt_def, sub_one_toNat (by omega)]
  exact (by omega : 2 < n.toNat - 1)

/-- A candidate of the window is at least 4 (R9). -/
theorem four_le_of_inWindow {v : Word} (h : inWindow v = true) : 4 ≤ v.toNat :=
  le_trans (by norm_num) (inWindow_iff.1 h).1

/-- For a source that keeps its contract, the request each stage asks for is not empty (R73). -/
theorem expectedRequest_lo_lt_hi {s : State} {r : Request} (hstage : stageInv s = true)
    (h : expectedRequest s = some r) : r.lo < r.hi := by
  cases hm : s.mode with
  | idle => simp [expectedRequest, hm] at h
  | halt => simp [expectedRequest, hm] at h
  | busy g =>
    cases g with
    | accepted => simp [expectedRequest, hm] at h
    | decomposing => simp [expectedRequest, hm] at h
    | unspecified => simp [expectedRequest, hm] at h
    | isPrimeWait =>
      obtain rfl : ⟨2, s.work.mr.n - 1⟩ = r := by simpa [expectedRequest, hm] using h
      have hn : 4 ≤ s.work.mr.n := by simpa [stageInv, hm] using hstage
      exact two_lt_sub_one (BitVec.le_def.1 hn)
    | testPWait =>
      obtain rfl : ⟨2, s.work.mr.n - 1⟩ = r := by simpa [expectedRequest, hm] using h
      have hst : inWindow s.work.kg.p = true ∧ s.work.mr.n = s.work.kg.p := by simpa [stageInv, hm] using hstage
      exact two_lt_sub_one (hst.2 ▸ four_le_of_inWindow hst.1)
    | testQWait =>
      obtain rfl : ⟨2, s.work.mr.n - 1⟩ = r := by simpa [expectedRequest, hm] using h
      have hst : (inWindow s.work.kg.p = true ∧ inWindow s.work.kg.q = true) ∧ s.work.mr.n = s.work.kg.q := by
        simpa [stageInv, hm] using hstage
      exact two_lt_sub_one (hst.2 ▸ four_le_of_inWindow hst.1.2)
    | drawP =>
      obtain rfl : ⟨Config.winLo, Config.winHi⟩ = r := by simpa [expectedRequest, hm] using h
      decide
    | drawQ =>
      obtain rfl : ⟨Config.winLo, Config.winHi⟩ = r := by simpa [expectedRequest, hm] using h
      decide
    | drawE =>
      obtain rfl : ⟨2, s.work.kg.phi⟩ = r := by simpa [expectedRequest, hm] using h
      exact BitVec.lt_def.2 ((stageInv_drawE hm).1 hstage).two_lt_phi

/-- Settles O60: the outstanding request is the one the stage asks for. -/
theorem requestsAreNeverEmpty : Obligations.RequestsAreNeverEmpty := by
  intro s req hs hk hreq
  exact expectedRequest_lo_lt_hi hk.1 ((hs.port_eq hk.specified).symm.trans hreq)

/-! ### Answers -/

/-- An answer that stands next goes to the outstanding request (R69). -/
theorem step_answer_of_request {s : State} {v : Word} {rest : List EnvEvent} {r : Request}
    (henv : s.env = .answer v :: rest) (hr : s.port = some r) : step s = drain Config.params s.env s := by
  simp only [step, henv, answerEvent, hr]

/-- An answer that no request waits for is dropped (R282). -/
theorem step_answer_of_no_request {s : State} {v : Word} {rest : List EnvEvent} (henv : s.env = .answer v :: rest)
    (hr : s.port = none) : step s = .next { s with env := rest } := by
  simp only [step, henv, answerEvent, hr]

/-- From `s`, running over `l` has left the block waiting at `t`: it has taken the answers `vs`, none stands next, and going on
over a later answer is running from `s` over `vs` and that answer in a row (R72). -/
def Resumes (par : Config.Params) (l : List EnvEvent) (s t : State) : Prop :=
  ∃ vs, l = answers vs ++ t.env ∧ (∀ v rest, t.env ≠ .answer v :: rest) ∧
    ∀ v l', drain par (.answer v :: l') t = drain par (answers (vs ++ [v]) ++ l') s

/-- Where no answer stands next the block has taken none, and waits where it was. -/
theorem resumes_of_no_answer {par : Config.Params} {l : List EnvEvent} {s t : State}
    (hl : ∀ v rest, l ≠ .answer v :: rest) (h : drain par l s = .next t) : Resumes par l s t := by
  rw [drain_stops par l s hl] at h
  cases h
  exact ⟨[], rfl, hl, fun v l' => drain_withEnv par (.answer v :: l') s l⟩

/-- An answer that is taken comes before those that are taken after it. -/
theorem Resumes.cons {par : Config.Params} {v : Word} {l : List EnvEvent} {s s' t : State} {r : Request}
    (hr : s.port = some r) (htake : takeAnswer par v s = .next s') (h : Resumes par l s' t) :
    Resumes par (.answer v :: l) s t := by
  obtain ⟨vs, rfl, hstop, hgo⟩ := h
  refine ⟨v :: vs, rfl, hstop, fun u l' => ?_⟩
  have hfirst : drain par (answers (v :: vs ++ [u]) ++ l') s = drain par (answers (vs ++ [u]) ++ l') s' := by
    refine (drain_answer par v _ s r hr).trans ?_
    rw [htake]
    rfl
  exact (hgo u l').trans hfirst.symm

/-- Every command left waiting resumes. -/
theorem drain_resumes {par : Config.Params} {l : List EnvEvent} {s t : State} (h : drain par l s = .next t)
    (ht : t.port ≠ none) : Resumes par l s t := by
  induction l generalizing s with
  | nil => exact resumes_of_no_answer (by simp) h
  | cons ev rest ih =>
    cases hport : s.port with
    | none =>
      rw [drain_of_port_none par _ s hport] at h
      cases h
      exact absurd hport ht
    | some r =>
      by_cases hans : ∃ v, ev = .answer v
      · obtain ⟨v, rfl⟩ := hans
        rw [drain_answer par v rest s r hport] at h
        obtain ⟨s', htake⟩ := takeAnswer_goesOn par v s
        rw [htake] at h
        exact (ih h).cons hport htake
      · exact resumes_of_no_answer (fun v _ hev => hans ⟨v, (List.cons.inj hev).1⟩) h

/-- The later answer goes to the request of the command left waiting. -/
theorem Resumes.step_eq {s b t : State} (h : Resumes Config.params s.env b t) (ht : t.port ≠ none) (i : Instr)
    (hrun : ∀ l, exec i { s with env := l } = drain Config.params l b) :
    ∃ vs, s.env = answers vs ++ t.env ∧ (∀ v rest, t.env ≠ .answer v :: rest) ∧
      ∀ v l, step { t with env := .answer v :: l } = exec i { s with env := answers (vs ++ [v]) ++ l } := by
  obtain ⟨vs, henv, hstop, hgo⟩ := h
  obtain ⟨r, hr⟩ := Option.ne_none_iff_exists'.1 ht
  refine ⟨vs, henv, hstop, fun v l => ?_⟩
  calc step { t with env := .answer v :: l }
      = drain Config.params (.answer v :: l) { t with env := .answer v :: l } := step_answer_of_request rfl hr
    _ = drain Config.params (.answer v :: l) t := drain_withEnv _ _ t _
    _ = drain Config.params (answers (vs ++ [v]) ++ l) b := hgo v l
    _ = exec i { s with env := answers (vs ++ [v]) ++ l } := (hrun _).symm

/-- A drawing command starts the same whatever answers are to come. -/
theorem execIsprime_withEnv {s : State} (h0 : s.op.o0 ≠ 0) (h1 : s.op.o0 ≠ 1) (l : List EnvEvent) :
    exec .isprime { s with env := l } = drain Config.params l (isprimeBegin s) := by
  rw [execIsprime_of_not_refused (s := { s with env := l }) h0 h1]
  exact (congrArg _ (isprimeFrom_envBlind _ _ l)).trans (drain_withEnv _ l (isprimeBegin s) l)

theorem execKeygen_withEnv (s : State) (l : List EnvEvent) :
    exec .keygen { s with env := l } = drain Config.params l (keygenBegin s) :=
  drain_withEnv Config.params l (keygenBegin s) l

/-- Settles O16: an answer goes to a request that waits, and a command that waits has a request outstanding. -/
theorem answersGoToTheOutstandingRequest : Obligations.AnswersGoToTheOutstandingRequest := by
  refine ⟨fun s v rest henv => ⟨fun r hr => ?_, step_answer_of_no_request henv⟩, fun i s t h ht => ?_⟩
  · rw [step_answer_of_request henv hr, henv, drain_answer _ v rest s r hr]
  · rcases exec_ends_or_drains h with hend | ⟨rfl, h0, h1, hdrain⟩ | ⟨rfl, hdrain⟩
    · exact absurd hend.port ht
    · exact (drain_resumes hdrain ht).step_eq ht _ (execIsprime_withEnv h0 h1)
    · exact (drain_resumes hdrain ht).step_eq ht _ (execKeygen_withEnv s)

end Sys2Proof.Machine
end

section
/-!
PROOF. Command words: the decoder and the encoder agree, which words the decoder refuses, and how the block runs the word in
`CMD` (R90, R91, R95, R96, R241, R255).
-/
namespace Sys2Proof

/-! ### Decoder and encoder -/

/-- The lemmas of Laws/PerInstr.lean, for every command (R91). -/
theorem roundTrip (i : Instr) : Laws.RoundTrip.Statement i := by
  cases i with
  | mod => exact Laws.RoundTrip.mod
  | quot => exact Laws.RoundTrip.quot
  | modadd => exact Laws.RoundTrip.modadd
  | modsub => exact Laws.RoundTrip.modsub
  | modmul => exact Laws.RoundTrip.modmul
  | modpow => exact Laws.RoundTrip.modpow
  | egcd => exact Laws.RoundTrip.egcd
  | gcd => exact Laws.RoundTrip.gcd
  | modinv => exact Laws.RoundTrip.modinv
  | isprime => exact Laws.RoundTrip.isprime
  | keygen => exact Laws.RoundTrip.keygen
  | rsaxf => exact Laws.RoundTrip.rsaxf
  | clr => exact Laws.RoundTrip.clr

@[simp] theorem decode_encode (i : Instr) : decode (encode i) = .ok i := (roundTrip i).2

/-- A word decodes to a command exactly when it is the command's one encoding (R91). -/
theorem decode_eq_ok_iff {i : Instr} {w : Word} : decode w = .ok i ↔ w = encode i :=
  ⟨eq_encode_of_decode, fun h => h ▸ decode_encode i⟩

/-- Settles O2: both round trips, and the match words of the opcode map evaluated from the fields. -/
theorem eachCommandHasOneEncoding : Obligations.EachCommandHasOneEncoding := by
  refine ⟨fun _ _ => decode_eq_ok_iff, ?_⟩
  decide

/-- Settles O1: ten fixed words. -/
theorem commandWordsDecode : Obligations.CommandWordsDecode := by
  unfold Obligations.CommandWordsDecode
  decide

/-! ### Illegal words -/

/-- When the fields are legal (R95). -/
theorem CmdFields.problem_eq_none_iff (f : CmdFields) :
    f.problem = none ↔ f.reserved = 0 ∧ f.opc ≠ 0 ∧ f.opc < 0x0D ∧ (f.sub = true → f.opc = 3) := by
  unfold CmdFields.problem
  split_ifs with hreserved hopc hlt hsub
  · exact iff_of_false nofun fun h => hreserved h.1
  · exact iff_of_false nofun fun h => h.2.1 hopc
  · exact iff_of_false nofun fun h => BitVec.not_le.2 h.2.2.1 hlt
  · exact iff_of_false nofun fun h => hsub.2 (h.2.2.2 hsub.1)
  · refine iff_of_true rfl ⟨not_not.1 hreserved, hopc, BitVec.not_le.1 hlt, fun h => ?_⟩
    by_contra hne
    exact hsub ⟨h, hne⟩

/-- The opcode map has a command for every legal pair of `OPC` and `SUB` (R91, R95). -/
theorem exists_opcodeMap_eq_some {opc : BitVec 8} {sub : Bool} (h0 : opc ≠ 0) (hlt : opc < 0x0D)
    (hsub : sub = true → opc = 3) : ∃ i, opcodeMap opc.toNat sub = some i := by
  rw [← Option.isSome_iff_exists]
  revert opc sub
  decide

/-- The decoder refuses a word exactly when its fields have a problem (R95): what the opcode map leaves out is found
illegal before it is looked up. -/
theorem exists_decode_eq_error_iff (w : Word) :
    (∃ why, decode w = .error why) ↔ (fieldsOf w).problem ≠ none := by
  cases hproblem : (fieldsOf w).problem with
  | some why => simp [decode, hproblem]
  | none =>
    obtain ⟨-, h0, hlt, hsub⟩ := (fieldsOf w).problem_eq_none_iff.1 hproblem
    obtain ⟨i, hi⟩ := exists_opcodeMap_eq_some h0 hlt hsub
    simp [decode, hproblem, hi]

theorem fieldsOf_opc_toNat (w : Word) : (fieldsOf w).opc.toNat = w.toNat % 2 ^ 8 := by
  simp [fieldsOf]

theorem fieldsOf_reserved_toNat (w : Word) : (fieldsOf w).reserved.toNat = w.toNat / 2 ^ 9 := by
  have hw : w.toNat < 2 ^ 64 := w.isLt
  simp only [fieldsOf, BitVec.extractLsb'_toNat, Nat.shiftRight_eq_div_pow]
  omega

theorem fieldsOf_sub_eq_true_iff (w : Word) : (fieldsOf w).sub = true ↔ w.toNat / 2 ^ 8 % 2 = 1 := by
  simp [fieldsOf, BitVec.getLsbD, Nat.testBit_eq_decide_div_mod_eq]

/-- Settles O3: a word is refused when its fields have a problem, and each field is a part of the word's number. -/
theorem illegalWordsAreRefused : Obligations.IllegalWordsAreRefused := by
  intro w
  rw [exists_decode_eq_error_iff, ne_eq, CmdFields.problem_eq_none_iff, fieldsOf_sub_eq_true_iff]
  simp only [← BitVec.toNat_inj, ne_eq, BitVec.lt_def, fieldsOf_opc_toNat, fieldsOf_reserved_toNat,
    BitVec.ofNat_eq_ofNat, BitVec.toNat_ofNat]
  omega

end Sys2Proof

namespace Sys2Proof.Machine

/-! ### Running the word in `CMD` -/

/-- With no event left the step is the sequencer's (R14). -/
theorem step_of_no_event {s : State} (h : s.env = []) : step s = sequencer s := by
  rw [step, h]

/-- When the sequencer's time has passed it goes to work (R242). -/
theorem step_run {s : State} {rest : List EnvEvent} (h : s.env = .run :: rest) :
    step s = sequencer { s with env := rest } := by
  rw [step, h]

/-- A word that decodes runs its command (R241). -/
theorem runCommand_of_ok {s : State} {i : Instr} (h : decode s.cmd = .ok i) : runCommand s = exec i s := by
  rw [runCommand, h]

/-- A word that does not decode is taken as an error (R95, R255). -/
theorem runCommand_of_error {s : State} {why : IllegalWord} (h : decode s.cmd = .error why) :
    runCommand s = .next (raiseError .illegalCmd s) := by
  rw [runCommand, h]

/-- An accepted word that does not decode halts the block (R95, R255, R259). -/
theorem haltsWith_sequencer_of_illegal {s : State} {why : IllegalWord} (hm : s.mode = .busy .accepted)
    (h : decode s.cmd = .error why) : HaltsWith .illegalCmd s (sequencer s) := by
  rw [sequencer_of_accepted s hm, runCommand_of_error h]
  exact ⟨endFatal .illegalCmd s, rfl, rfl, rfl, rfl, rfl, rfl, rfl, rfl, rfl, rfl, rfl, rfl, rfl⟩

/-- Settles O5: on both ways the sequencer comes to run, it finds the illegal word. -/
theorem illegalWordHaltsTheBlock : Obligations.IllegalWordHaltsTheBlock := by
  refine fun s why hm hdecode => ⟨fun henv => ?_, fun rest henv => ?_⟩
  · rw [step_of_no_event henv]
    exact haltsWith_sequencer_of_illegal hm hdecode
  · rw [step_run henv]
    exact haltsWith_sequencer_of_illegal (s := { s with env := rest }) hm hdecode

/-! ### The host sequence of a command line -/

/-- A run goes on from the next state. -/
theorem run_succ {M : Host.Core} {s t : M.State} (k : Nat) (h : M.step s = .next t) : M.run (k + 1) s = M.run k t := by
  rw [Host.Core.run, h]

/-- A run of one step is the step. -/
theorem run_one (s : State) : Host.Core.run core 1 s = step s := by
  obtain ⟨t, ht⟩ := step_goesOn s
  exact (run_succ 0 ht).trans ht.symm

/-- A write that stands next in `IDLE` is taken (R65), and the run goes on. -/
theorem run_write_of_idle {s : State} (k : Nat) (o : OpRegs) (i : Fin 16) (v : Word) (l : List EnvEvent)
    (hm : s.mode = .idle) :
    Host.Core.run core (k + 1) { s with op := o, env := .write i v :: l } =
      Host.Core.run core k (writeIdle i v { s with op := o, env := l }) := by
  rw [← hostWrite_of_idle i v { s with op := o, env := l } hm]
  exact run_succ k (step_write (s := { s with op := o, env := .write i v :: l }) rfl)

/-- The four writes of a command line put the operands in their registers and have the command accepted (R96). -/
theorem run_commandLine_writes {s : State} {i : Instr} {a b c : Word} {rest : List EnvEvent} (k : Nat)
    (hm : s.mode = .idle) (henv : s.env = commandLine i a b c ++ rest) :
    Host.Core.run core (k + 4) s =
      Host.Core.run core k { accept (encode i) s with op := ⟨a, b, c⟩, env := .run :: rest } := by
  have hs : s = { s with env := commandLine i a b c ++ rest } := by rw [← henv]
  calc Host.Core.run core (k + 4) s
    _ = Host.Core.run core (k + 4) { s with env := commandLine i a b c ++ rest } := congrArg _ hs
    _ = Host.Core.run core (k + 3)
          { s with op := ⟨a, s.op.o1, s.op.o2⟩, env := [.write 3 b, .write 4 c, .write 0 (encode i), .run] ++ rest } :=
        run_write_of_idle (k + 3) s.op 2 a _ hm
    _ = Host.Core.run core (k + 2)
          { s with op := ⟨a, b, s.op.o2⟩, env := [.write 4 c, .write 0 (encode i), .run] ++ rest } :=
        run_write_of_idle (k + 2) _ 3 b _ hm
    _ = Host.Core.run core (k + 1) { s with op := ⟨a, b, c⟩, env := [.write 0 (encode i), .run] ++ rest } :=
        run_write_of_idle (k + 1) _ 4 c _ hm
    _ = Host.Core.run core k { accept (encode i) s with op := ⟨a, b, c⟩, env := .run :: rest } :=
        run_write_of_idle k _ 0 (encode i) _ hm

/-- An accepted command runs when the sequencer's time has passed (R241). -/
theorem step_run_of_accepted {s : State} {i : Instr} {rest : List EnvEvent} (hm : s.mode = .busy .accepted)
    (hcmd : s.cmd = encode i) (h : s.env = .run :: rest) : step s = exec i { s with env := rest } := by
  rw [step_run h, sequencer_of_accepted { s with env := rest } hm]
  exact runCommand_of_ok (decode_eq_ok_iff.2 hcmd)

/-- Settles O17: the four writes are taken in `IDLE`, and the fifth step runs the command. -/
theorem commandLineRunsTheCommand : Obligations.CommandLineRunsTheCommand := by
  intro i a b c s rest hm henv
  rw [run_commandLine_writes 1 hm henv, run_one]
  exact step_run_of_accepted rfl rfl rfl

end Sys2Proof.Machine
end

section
/-!
PROOF. Reduction: the binary long division computes the quotient and the remainder (R120, R121), which the unit's registers
hold at its end (R125), and `MOD` and `QUOT` (R123, R124).
-/
namespace Sys2Proof.Machine

/-! ### Shifting by one -/

theorem shiftLeft_one_toNat {v : Word} (h : 2 * v.toNat < 2 ^ 64) : (v <<< 1).toNat = 2 * v.toNat := by
  rw [BitVec.toNat_shiftLeft, Nat.shiftLeft_eq, pow_one, mul_comm, Nat.mod_eq_of_lt h]

theorem shiftRight_one_toNat (v : Word) : (v >>> 1).toNat = v.toNat / 2 := by
  rw [BitVec.toNat_ushiftRight, Nat.shiftRight_one]

/-- A word that can be doubled has its top bit clear: the guard of R120's phase 1 never decides. -/
theorem getLsbD_63_of_two_mul_lt {v : Word} (h : 2 * v.toNat < 2 ^ 64) : v.getLsbD 63 = false :=
  Nat.testBit_lt_two_pow (by omega)

/-! ### Phase 1: shift up -/

/-- The shifter and the bit after `k` shifts up (R121: "`sh = n * bit` exact"). -/
def ShiftedUp (n : Word) (k : Nat) (sh bit : Word) : Prop :=
  sh.toNat = 2 ^ k * n.toNat ∧ bit.toNat = 2 ^ k

/-- A shift that keeps the shifter at most `a` loses no bit. -/
theorem ShiftedUp.succ {n sh bit : Word} {k : Nat} (hn : n ≠ 0) (h : ShiftedUp n k sh bit)
    (hlt : 2 * sh.toNat < 2 ^ 64) : ShiftedUp n (k + 1) (sh <<< 1) (bit <<< 1) := by
  obtain ⟨hsh, hbit⟩ := h
  have hle : bit.toNat ≤ sh.toNat := by
    rw [hsh, hbit]
    exact Nat.le_mul_of_pos_right _ (toNat_pos_of_ne_zero hn)
  refine ⟨?_, ?_⟩
  · rw [shiftLeft_one_toNat hlt, hsh, pow_succ']
    ring
  · rw [shiftLeft_one_toNat (by omega), hbit, pow_succ']

/-- Phase 1 stops with twice the shifter above `a`, within its count (R121): the bit is a word, so it is below `2 ^ 64`. -/
theorem divUp_shiftedUp {a n : Word} (hn : n ≠ 0) (fuel k : Nat) (sh bit : Word) (hk : k + fuel = 64)
    (h : ShiftedUp n k sh bit) :
    ∃ m < 64, ShiftedUp n m (divUp a fuel sh bit).1 (divUp a fuel sh bit).2 ∧
      a.toNat < 2 * (divUp a fuel sh bit).1.toNat := by
  induction fuel generalizing k sh bit with
  | zero =>
    obtain rfl : k = 64 := hk
    exact absurd (h.2 ▸ bit.isLt) (lt_irrefl _)
  | succ fuel ih =>
    unfold divUp
    have ha : a.toNat < 2 ^ 64 := a.isLt
    by_cases hle : sh ≤ a >>> 1
    · have hlt : 2 * sh.toNat < 2 ^ 64 := by
        rw [BitVec.le_def, shiftRight_one_toNat] at hle
        omega
      rw [if_pos ⟨hle, getLsbD_63_of_two_mul_lt hlt⟩]
      exact ih (k + 1) _ _ (by omega) (h.succ hn hlt)
    · rw [if_neg fun hand => hle hand.1]
      have hgt : a.toNat < 2 * sh.toNat := by
        rw [BitVec.le_def, shiftRight_one_toNat] at hle
        omega
      exact ⟨k, by omega, h, hgt⟩

/-! ### Phase 2: subtract down -/

/-- The long division of `a` by `n` on its way down (R121): the shifter stands `k` places up, the lowest `j` bits of the
quotient are still to come, and `q * n + r = a` with a remainder that these `j` bits can cover. A step is taken with
`j = k + 1` and leaves `j = k`. -/
structure Dividing (a n : Word) (k j : Nat) (d : DivRegs) : Prop where
  shifted : ShiftedUp n k d.sh d.bit
  aligned : 2 ^ j ∣ d.q.toNat
  sum : d.q.toNat * n.toNat + d.r.toNat = a.toNat
  below : d.r.toNat < 2 ^ j * n.toNat

/-- Setting the next bit of a quotient that ends in zeros adds it. -/
theorem or_toNat_of_dvd {q bit : Word} {k : Nat} (hq : 2 ^ (k + 1) ∣ q.toNat) (hbit : bit.toNat = 2 ^ k) :
    (q ||| bit).toNat = q.toNat + 2 ^ k := by
  obtain ⟨c, hc⟩ := hq
  rw [BitVec.toNat_or, hbit, hc, Nat.two_pow_add_eq_or_of_lt (Nat.pow_lt_pow_right one_lt_two k.lt_succ_self)]

/-- One subtraction step finds the quotient bit at `k` (R121: "`r < 2 * sh` before each step and `r < sh` after it"). -/
theorem Dividing.divSub {a n : Word} {k : Nat} {d : DivRegs} (h : Dividing a n k (k + 1) d) :
    Dividing a n k k (divSub d) := by
  obtain ⟨⟨hsh, hbit⟩, haligned, hsum, hbelow⟩ := h
  rw [pow_succ', mul_assoc, ← hsh] at hbelow
  have hdvd : 2 ^ k ∣ d.q.toNat := (pow_dvd_pow 2 k.le_succ).trans haligned
  unfold Machine.divSub
  split_ifs with hle
  · have hq := or_toNat_of_dvd haligned hbit
    have hr : (d.r - d.sh).toNat = d.r.toNat - d.sh.toNat := BitVec.toNat_sub_of_le hle
    rw [BitVec.le_def] at hle
    refine ⟨⟨hsh, hbit⟩, ?_, ?_, ?_⟩
    · rw [hq]
      exact hdvd.add dvd_rfl
    · rw [hq, hr, add_mul, ← hsh]
      omega
    · rw [hr, ← hsh]
      omega
  · rw [BitVec.le_def, hsh] at hle
    exact ⟨⟨hsh, hbit⟩, hdvd, hsum, not_le.1 hle⟩

/-- Halving the shifter and the bit takes them one place down. -/
theorem Dividing.halve {a n : Word} {k j : Nat} {d : DivRegs} (h : Dividing a n (k + 1) j d) :
    Dividing a n k j { d with sh := d.sh >>> 1, bit := d.bit >>> 1 } := by
  obtain ⟨⟨hsh, hbit⟩, haligned, hsum, hbelow⟩ := h
  rw [pow_succ'] at hsh hbit
  refine ⟨⟨?_, ?_⟩, haligned, hsum, hbelow⟩
  · rw [shiftRight_one_toNat, hsh, mul_assoc, Nat.mul_div_cancel_left _ two_pos]
  · rw [shiftRight_one_toNat, hbit, Nat.mul_div_cancel_left _ two_pos]

/-- The bit is 1 in the last step exactly. -/
theorem Dividing.bit_eq_one_iff {a n : Word} {k j : Nat} {d : DivRegs} (h : Dividing a n k j d) :
    d.bit = 1 ↔ k = 0 := by
  rw [← BitVec.toNat_inj, h.shifted.2]
  exact Nat.pow_eq_one.trans (or_iff_right (by decide))

/-- Phase 2 ends with every bit of the quotient found, within its count (R121). -/
theorem Dividing.divDown {a n : Word} (fuel k : Nat) (d : DivRegs) (hk : k < fuel) (h : Dividing a n k (k + 1) d) :
    Dividing a n 0 0 (divDown fuel d) := by
  induction fuel generalizing k d with
  | zero => exact absurd hk k.not_lt_zero
  | succ fuel ih =>
    unfold Machine.divDown
    cases k with
    | zero =>
      rw [if_pos (h.divSub.bit_eq_one_iff.2 rfl)]
      exact h.divSub
    | succ k =>
      rw [if_neg fun hbit => k.succ_ne_zero (h.divSub.bit_eq_one_iff.1 hbit)]
      exact ih k _ (Nat.lt_of_succ_lt_succ hk) h.divSub.halve

/-- With no quotient bit to come the registers are those of a finished unit (R125): quotient and remainder are determined by
`q * n + r = a` and `r < n`. -/
theorem Dividing.eq_divRegs {a n : Word} {d : DivRegs} (hn : n ≠ 0) (h : Dividing a n 0 0 d) : d = divRegs a n := by
  obtain ⟨⟨hsh, hbit⟩, -, hsum, hbelow⟩ := h
  rw [pow_zero, one_mul] at hsh hbelow
  have hdivmod : a.toNat / n.toNat = d.q.toNat ∧ a.toNat % n.toNat = d.r.toNat :=
    (Nat.div_mod_unique (toNat_pos_of_ne_zero hn)).2 ⟨by rw [← hsum]; ring, hbelow⟩
  obtain ⟨sh, bit, q, r⟩ := d
  rw [divRegs, DivRegs.mk.injEq]
  refine ⟨BitVec.eq_of_toNat_eq hsh, BitVec.eq_of_toNat_eq hbit, BitVec.eq_of_toNat_eq ?_, BitVec.eq_of_toNat_eq ?_⟩
  · exact hdivmod.1.symm.trans (quotOf_toNat a hn).symm
  · exact hdivmod.2.symm.trans (modOf_toNat a hn).symm

/-! ### The long division -/

/-- The long division of R120 leaves the registers R125 gives. -/
theorem divLoop_eq_divRegs (a : Word) {n : Word} (hn : n ≠ 0) : divLoop a n = divRegs a n := by
  have hload : ShiftedUp n 0 n 1 := ⟨by rw [pow_zero, one_mul], rfl⟩
  obtain ⟨m, hm, hup, hlt⟩ := divUp_shiftedUp (a := a) hn 64 0 n 1 rfl hload
  have hdown : Dividing a n m (m + 1) { sh := (divUp a 64 n 1).1, bit := (divUp a 64 n 1).2, q := 0, r := a } := by
    refine ⟨hup, dvd_zero _, by simp, ?_⟩
    rw [pow_succ', mul_assoc, ← hup.1]
    exact hlt
  exact (hdown.divDown 64 m _ hm).eq_divRegs hn

/-- Settles O23: the long division's `q` and `r` are the model's quotient and remainder, whose values are known. -/
theorem longDivisionComputesQuotientAndRemainder : Obligations.LongDivisionComputesQuotientAndRemainder := by
  intro a n hn
  have hq : (divLoop a n).q.toNat = a.toNat / n.toNat := by rw [divLoop_eq_divRegs a hn, divRegs, quotOf_toNat a hn]
  have hr : (divLoop a n).r.toNat = a.toNat % n.toNat := by rw [divLoop_eq_divRegs a hn, divRegs, modOf_toNat a hn]
  refine ⟨hq, hr, ?_, ?_⟩
  · rw [hq, hr]
    exact Nat.div_add_mod' _ _
  · rw [hr]
    exact Nat.mod_lt _ (toNat_pos_of_ne_zero hn)

/-- Settles O24: `runDiv` sets exactly the registers of `divRegs`. -/
theorem reductionUnitRunsTheLongDivision : Obligations.ReductionUnitRunsTheLongDivision :=
  fun a _ _ hn => (divLoop_eq_divRegs a hn).symm

/-! ### `MOD` and `QUOT` -/

/-- A success end as a completion statement: every field of the next state (R242). -/
theorem endsWith_endSuccess (res : ResRegs) (rv : BitVec 5) (s : State) :
    EndsWith res rv s (.next (endSuccess res rv s)) :=
  ⟨_, rfl, rfl, rfl, rfl, rfl, rfl, rfl, rfl, rfl, rfl, rfl, rfl, rfl⟩

/-- A fatal end as a completion statement: every field of the next state (R242, R259). -/
theorem haltsWith_endFatal (c : ErrCode) (s : State) : HaltsWith c s (.next (endFatal c s)) :=
  ⟨_, rfl, rfl, rfl, rfl, rfl, rfl, rfl, rfl, rfl, rfl, rfl, rfl, rfl⟩

theorem modOf_eq_umod (a : Word) {n : Word} (hn : n ≠ 0) : modOf a n = a % n :=
  BitVec.eq_of_toNat_eq (by rw [modOf_toNat a hn, BitVec.toNat_umod])

theorem quotOf_eq_udiv (a : Word) {n : Word} (hn : n ≠ 0) : quotOf a n = a / n :=
  BitVec.eq_of_toNat_eq (by rw [quotOf_toNat a hn, BitVec.toNat_udiv])

theorem exec_mod_of_zero {s : State} (h : s.op.o1 = 0) : exec .mod s = .next (endFatal .zeroModulus s) := if_pos h

theorem exec_quot_of_zero {s : State} (h : s.op.o1 = 0) : exec .quot s = .next (endFatal .zeroModulus s) := if_pos h

/-- `MOD` with a modulus (R123). -/
theorem exec_mod_of_ne_zero {s : State} (h : s.op.o1 ≠ 0) :
    exec .mod s = .next (endSuccess { s.res with r0 := s.op.o0 % s.op.o1 } 0b00001 s) := by
  rw [← modOf_eq_umod _ h]
  exact if_neg h

/-- `QUOT` with a modulus (R124). -/
theorem exec_quot_of_ne_zero {s : State} (h : s.op.o1 ≠ 0) :
    exec .quot s = .next (endSuccess { s.res with r0 := s.op.o0 / s.op.o1 } 0b00001 s) := by
  rw [← quotOf_eq_udiv _ h]
  exact if_neg h

/-- Settles O22: both words are the commands' encodings, and in every state the modulus check decides between the fatal end
and the success end. -/
theorem modAndQuotComplete : Obligations.ModAndQuotComplete := by
  refine ⟨decode_encode .mod, decode_encode .quot, fun s => ?_⟩
  split_ifs with h
  · rw [exec_mod_of_zero h, exec_quot_of_zero h]
    exact ⟨haltsWith_endFatal _ _, haltsWith_endFatal _ _⟩
  · rw [exec_mod_of_ne_zero h, exec_quot_of_ne_zero h]
    exact ⟨endsWith_endSuccess _ _ _, endsWith_endSuccess _ _ _⟩

end Sys2Proof.Machine
end

section
/-!
PROOF. The adder and the multiplier: the pseudocode of `ModAdd` with its wrap correction computes the sum and the difference
(R140, R141), the two units run on their registers come to the values of the pseudocode (R144, R153), and `MODADD` and `MODSUB`
(R142, R143).
-/
namespace Sys2Proof.Machine

/-! ### The sum with its wrap correction -/

/-- The second summand of `ModAdd` (R140): `b` reduced, and negated modulo `n` for `SUB`. -/
def addend (op : AddOp) (b n : Word) : Word :=
  match op with
  | .add => modOf b n
  | .sub => n - modOf b n

/-- The 64-bit sum of R140, corrected by `1 + mod(MAX, n)` when it wraps. -/
def correctedSum (a b n : Word) : Word :=
  if a + b < a ∨ a + b < b then a + b + 1 + modOf maxWord n else a + b

/-- R140's test for a wrap is the carry out of the sum (R140, decision D12). -/
theorem add_lt_iff_carry (a b : Word) : (a + b < a ∨ a + b < b) ↔ 2 ^ 64 ≤ a.toNat + b.toNat := by
  rw [BitVec.lt_def, BitVec.lt_def, BitVec.toNat_add]
  omega

/-- Above half the range `MAX` is reduced by one subtraction (R141: "`1 + (MAX mod n) = 2^64 - n`"). -/
theorem modOf_maxWord_toNat {n : Word} (hn : 2 ^ 63 < n.toNat) : (modOf maxWord n).toNat = 2 ^ 64 - 1 - n.toNat := by
  have hmax : maxWord.toNat = 2 ^ 64 - 1 := rfl
  have hn0 : n ≠ 0 := by
    rintro rfl
    exact absurd hn (by decide)
  rw [modOf_toNat _ hn0, hmax, Nat.mod_eq_sub_mod (by omega), Nat.mod_eq_of_lt (by omega)]

/-- The corrected sum is the true sum modulo `n` (R141): a wrapped one comes to `a + b - n`, and the correction does not
wrap again. -/
theorem correctedSum_mod {a b n : Word} (ha : a.toNat < n.toNat) (hb : b.toNat ≤ n.toNat) :
    (correctedSum a b n).toNat % n.toNat = (a.toNat + b.toNat) % n.toNat := by
  unfold correctedSum
  split_ifs with hwrap
  · rw [add_lt_iff_carry] at hwrap
    have hmax := modOf_maxWord_toNat (n := n) (by omega)
    have hsum : (a + b + 1 + modOf maxWord n).toNat = a.toNat + b.toNat - n.toNat := by
      simp only [BitVec.toNat_add, hmax, BitVec.ofNat_eq_ofNat, BitVec.toNat_ofNat]
      omega
    rw [hsum]
    exact (Nat.mod_eq_sub_mod (by omega)).symm
  · rw [add_lt_iff_carry, not_le] at hwrap
    rw [BitVec.toNat_add_of_lt hwrap]

/-! ### The pseudocode of `ModAdd` -/

/-- Reduction by long division is the model's `mod` (R120, R121). -/
theorem modLoop_eq_modOf (a : Word) {n : Word} (hn : n ≠ 0) : modLoop a n = modOf a n := by
  rw [modLoop, divLoop_eq_divRegs a hn, divRegs]

theorem modOf_lt (a : Word) {n : Word} (hn : n ≠ 0) : (modOf a n).toNat < n.toNat := residue_lt _ hn

theorem addend_add_toNat (b : Word) {n : Word} (hn : n ≠ 0) : (addend .add b n).toNat = b.toNat % n.toNat :=
  modOf_toNat b hn

/-- The negated summand is `n` less the reduced one, with no wrap (R141). -/
theorem addend_sub_toNat (b : Word) {n : Word} (hn : n ≠ 0) : (addend .sub b n).toNat = n.toNat - b.toNat % n.toNat := by
  rw [← modOf_toNat b hn]
  exact BitVec.toNat_sub_of_le (modOf_lt b hn).le

theorem addend_le (op : AddOp) (b : Word) {n : Word} (hn : n ≠ 0) : (addend op b n).toNat ≤ n.toNat := by
  cases op with
  | add => exact (modOf_lt b hn).le
  | sub =>
    rw [addend_sub_toNat b hn]
    exact Nat.sub_le _ _

/-- `ModAdd` reduces the corrected sum of its reduced summands (R140). -/
theorem modAdd_eq_modOf (op : AddOp) (a b : Word) {n : Word} (hn : n ≠ 0) :
    modAdd op a b n = modOf (correctedSum (modOf a n) (addend op b n) n) n := by
  simp only [modAdd, modLoop_eq_modOf _ hn]
  cases op <;> rfl

/-- `ModAdd` as a remainder of natural numbers (R141). -/
theorem modAdd_toNat (op : AddOp) (a b : Word) {n : Word} (hn : n ≠ 0) :
    (modAdd op a b n).toNat = (a.toNat % n.toNat + (addend op b n).toNat) % n.toNat := by
  rw [modAdd_eq_modOf op a b hn, modOf_toNat _ hn, correctedSum_mod (modOf_lt a hn) (addend_le op b hn),
    modOf_toNat a hn]

/-- The pseudocode of `ModAdd` computes the model's sum modulo `n` (R141). -/
theorem modAdd_eq_sumMod (op : AddOp) (a b : Word) {n : Word} (hn : n ≠ 0) : modAdd op a b n = sumMod op a b n := by
  apply BitVec.eq_of_toNat_eq
  rw [modAdd_toNat op a b hn]
  cases op with
  | add =>
    rw [sumMod_add_toNat a b hn, addend_add_toNat b hn, ← Nat.add_mod]
  | sub =>
    have hle : b.toNat % n.toNat ≤ n.toNat := (Nat.mod_lt _ (toNat_pos_of_ne_zero hn)).le
    rw [← Int.natCast_inj, sumMod_sub_toNat a b hn, addend_sub_toNat b hn]
    push_cast [hle]
    rw [← add_sub_assoc, add_sub_right_comm, Int.add_emod_right, ← Int.sub_emod]

/-- Settles O26: the pseudocode's value is the model's sum modulo `n`, whose value is known. -/
theorem modAddPseudocodeComputesTheSum : Obligations.ModAddPseudocodeComputesTheSum := by
  intro a b n hn
  rw [modAdd_eq_sumMod .add a b hn, modAdd_eq_sumMod .sub a b hn]
  exact ⟨sumMod_add_toNat a b hn, sumMod_sub_toNat a b hn⟩

/-! ### The adder -/

/-- `A_FIX` leaves the corrected sum (R144), where the sum and its wrap stand in the adder. -/
theorem addFix_add_s (a b n : Word) (u : Alu) :
    (addFix n { u with add := ⟨a, b, a + b, decide (a + b < a ∨ a + b < b)⟩ }).add.s = correctedSum a b n := by
  simp only [addFix, correctedSum, decide_eq_true_eq]
  split_ifs <;> rfl

@[simp] theorem addFix_mul (n : Word) (u : Alu) : (addFix n u).mul = u.mul := by
  unfold addFix
  split_ifs <;> rfl

/-- The adder's result is the reduced corrected sum (R144). -/
theorem runAdd_div_r (op : AddOp) (a b n : Word) (u : Alu) :
    (runAdd op a b n u).div.r = modOf (correctedSum (modOf a n) (addend op b n) n) n := by
  cases op <;> exact congrArg (modOf · n) (addFix_add_s _ _ n _)

/-- The adder comes to the value of `ModAdd` (R144). -/
theorem runAdd_div_r_eq_modAdd (op : AddOp) (a b : Word) {n : Word} (u : Alu) (hn : n ≠ 0) :
    (runAdd op a b n u).div.r = modAdd op a b n := by
  rw [runAdd_div_r, modAdd_eq_modOf op a b hn]

/-- The adder drives no unit but the reduction unit (R2). -/
@[simp] theorem runAdd_mul (op : AddOp) (a b n : Word) (u : Alu) : (runAdd op a b n u).mul = u.mul := by
  cases op <;> exact addFix_mul _ _

/-! ### The multiplier -/

/-- `M_BIT` adds `x` into the accumulator when the bit of `y` is set (R153). -/
theorem mulBit_mul {n : Word} (u : Alu) (hn : n ≠ 0) :
    (mulBit n u).mul =
      { u.mul with acc := if u.mul.y.getLsbD u.mul.i then modAdd .add u.mul.acc u.mul.x n else u.mul.acc } := by
  unfold mulBit
  split_ifs
  · simp only [runAdd_mul, runAdd_div_r_eq_modAdd .add _ _ u hn]
  · rfl

/-- `M_DBL` and `M_NEXT` double `x` and go to the next bit (R153). -/
theorem mulDbl_mul {n : Word} (u : Alu) (hn : n ≠ 0) :
    (mulDbl n u).mul =
      { u.mul with
        x := if u.mul.x.getLsbD 63 then modAdd .add u.mul.x u.mul.x n else modLoop (u.mul.x <<< 1) n
        i := u.mul.i + 1 } := by
  unfold mulDbl
  split_ifs
  · simp only [runAdd_mul, runAdd_div_r_eq_modAdd .add _ _ u hn]
  · rw [modLoop_eq_modOf _ hn]
    rfl

/-- The multiplier's loop runs the loop of R150 on its registers (R153). -/
theorem mulLoop_acc {n : Word} (hn : n ≠ 0) (left : Nat) (u : Alu) :
    (mulLoop n left u).mul.acc = modMulLoop u.mul.y n left u.mul.i u.mul.x u.mul.acc := by
  induction left generalizing u with
  | zero => rfl
  | succ left ih => rw [mulLoop, ih, mulDbl_mul _ hn, mulBit_mul u hn, modMulLoop]

/-- The multiplier comes to the value of `ModMul` (R153). -/
theorem runMul_acc (x y : Word) {n : Word} (u : Alu) (hn : n ≠ 0) : (runMul x y n u).mul.acc = modMul x y n := by
  rw [runMul, mulLoop_acc hn, modMul, modLoop_eq_modOf x hn, modLoop_eq_modOf y hn]
  rfl

/-- Settles O29: each unit's registers follow its pseudocode. -/
theorem adderAndMultiplierUnits : Obligations.AdderAndMultiplierUnits :=
  fun op x y _ u hn => ⟨runAdd_div_r_eq_modAdd op x y u hn, runMul_acc x y u hn⟩

/-! ### `MODADD` and `MODSUB` -/

theorem addCommand_of_zero (op : AddOp) {s : State} (h : s.op.o2 = 0) : HaltsWith .zeroModulus s (addCommand op s) := by
  rw [addCommand, State.operand2, if_pos h]
  exact haltsWith_endFatal _ _

theorem addCommand_of_ne_zero (op : AddOp) {s : State} (h : s.op.o2 ≠ 0) :
    EndsWith { s.res with r0 := sumMod op s.op.o0 s.op.o1 s.op.o2 } 0b00001 s (addCommand op s) := by
  rw [addCommand, State.operand2, if_neg h]
  exact endsWith_endSuccess _ _ _

/-- Settles O25: the two commands are one with two operators, and the modulus check decides between the fatal end and the
success end. -/
theorem addAndSubtractComplete : Obligations.AddAndSubtractComplete := by
  refine ⟨decode_encode .modadd, decode_encode .modsub, fun s => ?_⟩
  split_ifs with h
  · exact ⟨addCommand_of_zero .add h, addCommand_of_zero .sub h⟩
  · exact ⟨⟨_, sumMod_add_toNat _ _ h, addCommand_of_ne_zero .add h⟩,
      ⟨_, sumMod_sub_toNat _ _ h, addCommand_of_ne_zero .sub h⟩⟩

end Sys2Proof.Machine
end

section
/-!
PROOF. The product: the double-and-add pseudocode of `ModMul` computes the product modulo `n` (R150, R151), and `MODMUL` (R152).
-/
namespace Sys2Proof.Machine

/-! ### Residues -/

theorem residue_congr {v w : Nat} {n : Word} (hn : n ≠ 0) (h : v ≡ w [MOD n.toNat]) : residue v n = residue w n := by
  apply BitVec.eq_of_toNat_eq
  rw [residue_toNat v hn, residue_toNat w hn]
  exact h

/-- A number is congruent to its residue (R121). -/
theorem residue_modEq (v : Nat) {n : Word} (hn : n ≠ 0) : (residue v n).toNat ≡ v [MOD n.toNat] := by
  rw [residue_toNat v hn]
  exact Nat.mod_modEq v _

/-- A word below the modulus is its own residue. -/
theorem residue_of_lt {a n : Word} (hn : n ≠ 0) (h : a.toNat < n.toNat) : residue a.toNat n = a := by
  apply BitVec.eq_of_toNat_eq
  rw [residue_toNat _ hn, Nat.mod_eq_of_lt h]

/-! ### The pseudocode of `ModMul` -/

/-- With bit 63 clear, a word doubles without wrapping (R150). -/
theorem two_mul_lt_of_getLsbD_63 {v : Word} (h : v.getLsbD 63 = false) : 2 * v.toNat < 2 ^ 64 :=
  BitVec.msb_eq_false_iff_two_mul_lt.1 (by rw [BitVec.msb_eq_getLsbD_last]; exact h)

/-- Both ways of doubling `x` in R150 give `x + x` modulo `n`: the shift is taken only where it loses no bit. -/
theorem doubled_eq_sumMod (x : Word) {n : Word} (hn : n ≠ 0) :
    (if x.getLsbD 63 then modAdd .add x x n else modLoop (x <<< 1) n) = sumMod .add x x n := by
  split_ifs with h
  · exact modAdd_eq_sumMod .add x x hn
  · have hlt := two_mul_lt_of_getLsbD_63 (Bool.eq_false_iff.2 h)
    rw [modLoop_eq_modOf _ hn, modOf, sumMod, shiftLeft_one_toNat hlt, two_mul]

/-- One bit of `y` in the accumulator of R150: `x` is added when the bit is set. -/
def accumulate (bit : Bool) (x acc n : Word) : Word :=
  if bit then sumMod .add acc x n else acc

theorem accumulate_lt (bit : Bool) (x : Word) {acc n : Word} (hn : n ≠ 0) (h : acc.toNat < n.toNat) :
    (accumulate bit x acc n).toNat < n.toNat := by
  cases bit with
  | false => exact h
  | true => exact residue_lt _ hn

theorem accumulate_modEq (bit : Bool) (x acc : Word) {n : Word} (hn : n ≠ 0) :
    (accumulate bit x acc n).toNat ≡ acc.toNat + x.toNat * bit.toNat [MOD n.toNat] := by
  cases bit with
  | false => exact Nat.ModEq.rfl
  | true =>
    rw [Bool.toNat_true, mul_one]
    exact residue_modEq _ hn

/-- One iteration of R150, over the model's sum modulo `n`. -/
theorem modMulLoop_succ (y : Word) {n : Word} (hn : n ≠ 0) (left i : Nat) (x acc : Word) :
    modMulLoop y n (left + 1) i x acc =
      modMulLoop y n left (i + 1) (sumMod .add x x n) (accumulate (y.getLsbD i) x acc n) := by
  rw [modMulLoop, doubled_eq_sumMod x hn, modAdd_eq_sumMod .add acc x hn, accumulate]

/-- The bits of a word from bit `i` on are bit `i` and twice the bits above it. -/
theorem toNat_shiftRight_eq (y : Word) (i : Nat) :
    y.toNat >>> i = 2 * y.toNat >>> (i + 1) + (y.getLsbD i).toNat := by
  have h := Nat.bit_testBit_zero_shiftRight_one (y.toNat >>> i)
  rw [Nat.testBit_shiftRight, ← Nat.shiftRight_add, Nat.bit_val] at h
  exact h.symm

/-- The loop of R150 adds to the accumulator, modulo `n`, the product of `x` and the bits of `y` still to come, when its
count covers them. -/
theorem modMulLoop_eq_residue (y : Word) {n : Word} (hn : n ≠ 0) (left i : Nat) (x acc : Word)
    (hy : y.toNat >>> i < 2 ^ left) (hacc : acc.toNat < n.toNat) :
    modMulLoop y n left i x acc = residue (acc.toNat + x.toNat * y.toNat >>> i) n := by
  induction left generalizing i x acc with
  | zero =>
    have hdone : y.toNat >>> i = 0 := Nat.lt_one_iff.1 hy
    rw [modMulLoop, hdone, mul_zero, add_zero, residue_of_lt hn hacc]
  | succ left ih =>
    have hbit := toNat_shiftRight_eq y i
    rw [modMulLoop_succ y hn, ih _ _ _ (by omega) (accumulate_lt _ x hn hacc)]
    apply residue_congr hn
    calc (accumulate (y.getLsbD i) x acc n).toNat + (sumMod .add x x n).toNat * y.toNat >>> (i + 1)
      _ ≡ acc.toNat + x.toNat * (y.getLsbD i).toNat + (x.toNat + x.toNat) * y.toNat >>> (i + 1) [MOD n.toNat] :=
          (accumulate_modEq _ x acc hn).add ((residue_modEq _ hn).mul_right _)
      _ = acc.toNat + x.toNat * y.toNat >>> i := by
          rw [hbit]
          ring

/-- The pseudocode of `ModMul` computes the model's product modulo `n` (R151). -/
theorem modMul_eq_prodMod (x y : Word) {n : Word} (hn : n ≠ 0) : modMul x y n = prodMod x y n := by
  rw [modMul, modLoop_eq_modOf x hn, modLoop_eq_modOf y hn,
    modMulLoop_eq_residue _ hn 64 0 _ 0 (modOf y n).isLt (toNat_pos_of_ne_zero hn)]
  apply residue_congr hn
  rw [Nat.shiftRight_zero, BitVec.ofNat_eq_ofNat, BitVec.toNat_zero, zero_add]
  exact (residue_modEq _ hn).mul (residue_modEq _ hn)

theorem prodMod_comm (x y n : Word) : prodMod x y n = prodMod y x n := by
  rw [prodMod, prodMod, mul_comm]

/-- Settles O28: the pseudocode's value is the model's product modulo `n`, whose value is known. -/
theorem modMulPseudocodeComputesTheProduct : Obligations.ModMulPseudocodeComputesTheProduct := by
  intro x y n hn
  rw [modMul_eq_prodMod x y hn, modMul_eq_prodMod y x hn]
  exact ⟨prodMod_toNat x y hn, prodMod_comm x y n⟩

/-! ### `MODMUL` -/

theorem exec_modmul_of_zero {s : State} (h : s.op.o2 = 0) : exec .modmul s = .next (endFatal .zeroModulus s) := if_pos h

/-- `MODMUL` with a modulus (R152). -/
theorem exec_modmul_of_ne_zero {s : State} (h : s.op.o2 ≠ 0) :
    exec .modmul s = .next (endSuccess { s.res with r0 := prodMod s.op.o0 s.op.o1 s.op.o2 } 0b00001 s) := if_neg h

/-- Settles O27: the word is the command's encoding, and the modulus check decides between the fatal end and the success
end. -/
theorem multiplyCompletes : Obligations.MultiplyCompletes := by
  refine ⟨decode_encode .modmul, fun s => ?_⟩
  split_ifs with h
  · rw [exec_modmul_of_zero h]
    exact haltsWith_endFatal _ _
  · refine ⟨_, prodMod_toNat _ _ h, ?_⟩
    rw [exec_modmul_of_ne_zero h]
    exact endsWith_endSuccess _ _ _

end Sys2Proof.Machine
end

section
/-!
PROOF. The power: the iterative exponentiator takes the same steps as the recursion of `ModPow` (R160, R162), the recursion
computes the power modulo `n` (R161), and `MODPOW` (R163).
-/
namespace Sys2Proof.Machine

/-! ### The recursion of `ModPow` -/

/-- One level of R160's recursion, and one bit of R162's loop: square, and multiply by `base` when the bit is set. -/
def powStep (mul : Word → Word → Word) (base : Word) (bit : Bool) (r : Word) : Word :=
  if bit then mul (mul r r) base else mul r r

theorem powRec_exp_zero (mul : Word → Word → Word) (base one : Word) (fuel : Nat) :
    powRec mul base one fuel 0 = 1 := by
  cases fuel <;> rfl

theorem powRec_exp_one (mul : Word → Word → Word) (base one : Word) (fuel : Nat) :
    powRec mul base one (fuel + 1) 1 = one := rfl

/-- Any other exponent takes one step on from its half (R160). -/
theorem powRec_succ (mul : Word → Word → Word) (base one : Word) (fuel : Nat) {e : Word} (h0 : e ≠ 0) (h1 : e ≠ 1) :
    powRec mul base one (fuel + 1) e = powStep mul base (e.getLsbD 0) (powRec mul base one fuel (e >>> 1)) := by
  rw [powRec, if_neg h0, if_neg h1, powStep]

/-- The exponents of the two base cases are those without a half. -/
theorem ushiftRight_one_eq_zero_iff (e : Word) : e >>> 1 = 0 ↔ e = 0 ∨ e = 1 := by
  simp only [← BitVec.toNat_inj, shiftRight_one_toNat, BitVec.ofNat_eq_ofNat, BitVec.toNat_ofNat]
  omega

/-! ### The exponentiator -/

/-- `P_SQR` and `P_MUL` take one step on the running value (R162). -/
theorem powBit_r (base e : Word) {n : Word} (i : Nat) (u : Alu) (hn : n ≠ 0) :
    (powBit base e n i u).pow.r = powStep (fun x y => modMul x y n) base (e.getLsbD i) u.pow.r := by
  unfold powBit powStep
  split_ifs <;> simp only [setPow, runMul_acc _ _ _ hn]

/-- A loop that starts at the recursion's value for the bits of `e` from `i` up, the top bit among them, comes to its value
for `e` (R162: "each return squares and conditionally multiplies for the next lower bit"). -/
theorem powLoop_r {base e n one : Word} (hn : n ≠ 0) (i fuel : Nat) (u : Alu) (htop : e >>> i ≠ 0)
    (hr : u.pow.r = powRec (fun x y => modMul x y n) base one fuel (e >>> i)) :
    (powLoop base e n i u).pow.r = powRec (fun x y => modMul x y n) base one (fuel + i) e := by
  induction i generalizing fuel u with
  | zero => rw [powLoop, hr, BitVec.ushiftRight_zero, Nat.add_zero]
  | succ i ih =>
    rw [BitVec.shiftRight_add] at htop hr
    obtain ⟨h0, h1⟩ := not_or.1 ((ushiftRight_one_eq_zero_iff _).not.1 htop)
    have hnext : (powBit base e n i u).pow.r = powRec (fun x y => modMul x y n) base one (fuel + 1) (e >>> i) := by
      rw [powBit_r base e i u hn, hr, powRec_succ _ _ _ _ h0 h1, BitVec.getLsbD_ushiftRight, Nat.add_zero]
    rw [powLoop, ih (fuel + 1) _ h0 hnext, Nat.add_right_comm, Nat.add_assoc]

/-- At the index R162's loop starts from only the top set bit is left: the recursion's innermost exponent 1. -/
theorem ushiftRight_log2 {e : Word} (h : e ≠ 0) : e >>> e.toNat.log2 = 1 := by
  apply BitVec.eq_of_toNat_eq
  rw [BitVec.toNat_ushiftRight, Nat.shiftRight_eq_div_pow]
  refine Nat.div_eq_of_lt_le ?_ ?_
  · simpa using Nat.log2_self_le (toNat_pos_of_ne_zero h).ne'
  · simpa [pow_succ'] using Nat.lt_log2_self (n := e.toNat)

/-- The exponentiator comes to the value of `ModPow` (R162). -/
theorem runPow_r (base e : Word) {n : Word} (u : Alu) (hn : n ≠ 0) : (runPow base e n u).pow.r = modPow base e n := by
  unfold runPow modPow
  split_ifs with h
  · rw [h, powRec_exp_zero]
    rfl
  · have ht : e.toNat.log2 < 64 := (Nat.log2_lt (toNat_pos_of_ne_zero h).ne').2 e.isLt
    have hone := ushiftRight_log2 h
    have hcount : 64 - e.toNat.log2 + 1 + e.toNat.log2 = 65 := by omega
    rw [← hcount]
    apply powLoop_r hn
    · rw [hone]
      decide
    · rw [hone, powRec_exp_one, modLoop_eq_modOf base hn]
      rfl

/-- Settles O32: the loop squares and multiplies in the order of the recursion's returns. -/
theorem iterativePowerEqualsRecursive : Obligations.IterativePowerEqualsRecursive :=
  fun base e _ u hn => runPow_r base e u hn

/-! ### The power -/

/-- One step on the residue of `v` gives the residue of `v ^ 2`, times `base` when the bit is set. -/
theorem powStep_residue (base : Word) {n : Word} (hn : n ≠ 0) (bit : Bool) (v : Nat) :
    powStep (fun x y => prodMod x y n) base bit (residue v n) = residue (v * v * base.toNat ^ bit.toNat) n := by
  have hsq : (residue v n).toNat * (residue v n).toNat ≡ v * v [MOD n.toNat] :=
    (residue_modEq v hn).mul (residue_modEq v hn)
  cases bit with
  | false =>
    rw [Bool.toNat_false, pow_zero, mul_one]
    exact residue_congr hn hsq
  | true =>
    rw [Bool.toNat_true, pow_one]
    exact residue_congr hn (((residue_modEq _ hn).trans hsq).mul_right _)

/-- The recursion computes the power (R161), when its count covers the exponent: `base ^ e` is the square of
`base ^ (e >> 1)`, times `base` when the lowest bit of `e` is set. -/
theorem powRec_eq_residue (base : Word) {n : Word} (hn : n ≠ 0) (fuel : Nat) (e : Word) (h0 : e ≠ 0)
    (hlt : e.toNat < 2 ^ fuel) :
    powRec (fun x y => prodMod x y n) base (modOf base n) fuel e = residue (base.toNat ^ e.toNat) n := by
  induction fuel generalizing e with
  | zero => exact absurd (Nat.lt_one_iff.1 hlt) (toNat_pos_of_ne_zero h0).ne'
  | succ fuel ih =>
    by_cases h1 : e = 1
    · rw [h1, powRec_exp_one, modOf, BitVec.ofNat_eq_ofNat, BitVec.toNat_ofNat, Nat.one_mod, pow_one]
    · have hbits : e.toNat = 2 * (e >>> 1).toNat + (e.getLsbD 0).toNat := toNat_shiftRight_eq e 0
      have hhalf : e >>> 1 ≠ 0 := (ushiftRight_one_eq_zero_iff e).not.2 (not_or.2 ⟨h0, h1⟩)
      rw [powRec_succ _ _ _ _ h0 h1, ih (e >>> 1) hhalf (by omega), powStep_residue base hn, hbits, pow_add, two_mul,
        pow_add]

/-- The value of `MODPOW` (R161): 1 for the exponent 0 whatever the modulus is. -/
theorem powMod_toNat (base e : Word) {n : Word} (hn : n ≠ 0) :
    (powMod base e n).toNat = if e = 0 then 1 else base.toNat ^ e.toNat % n.toNat := by
  unfold powMod
  split_ifs with h
  · rw [h, powRec_exp_zero]
    rfl
  · rw [powRec_eq_residue base hn 65 e h (e.isLt.trans (by decide)), residue_toNat _ hn]

/-- The pseudocode of `ModPow` computes the model's power (R160, R161): its multiplications and its base case agree. -/
theorem modPow_eq_powMod (base e : Word) {n : Word} (hn : n ≠ 0) : modPow base e n = powMod base e n := by
  simp only [modPow, powMod, modMul_eq_prodMod _ _ hn, modLoop_eq_modOf base hn]

theorem modPow_toNat (base e : Word) {n : Word} (hn : n ≠ 0) :
    (modPow base e n).toNat = if e = 0 then 1 else base.toNat ^ e.toNat % n.toNat := by
  rw [modPow_eq_powMod base e hn, powMod_toNat base e hn]

/-- Settles O31: the constant 1 of the exponent 0 is `base ^ 0 mod n` for every modulus but 1. -/
theorem modPowPseudocodeComputesThePower : Obligations.ModPowPseudocodeComputesThePower := by
  refine ⟨fun base e n h2 => ?_, fun base => powRec_exp_zero _ _ _ _, fun base e he => ?_⟩
  · have hn : n ≠ 0 := by
      rintro rfl
      exact absurd h2 (by decide)
    have hvalue : (modPow base e n).toNat = base.toNat ^ e.toNat % n.toNat := by
      rw [modPow_toNat base e hn]
      split_ifs with h
      · rw [h, BitVec.ofNat_eq_ofNat, BitVec.toNat_zero, pow_zero, Nat.mod_eq_of_lt h2]
      · rfl
    exact ⟨hvalue, hvalue ▸ Nat.mod_lt _ (by omega)⟩
  · have h : e ≠ 0 := by
      rintro rfl
      exact absurd he (by decide)
    apply BitVec.eq_of_toNat_eq
    rw [modPow_toNat base e (by decide), if_neg h]
    exact Nat.mod_one _

/-! ### `MODPOW` -/

theorem exec_modpow_of_zero {s : State} (h : s.op.o2 = 0) : exec .modpow s = .next (endFatal .zeroModulus s) := if_pos h

/-- `MODPOW` with a modulus (R163). -/
theorem exec_modpow_of_ne_zero {s : State} (h : s.op.o2 ≠ 0) :
    exec .modpow s = .next (endSuccess { s.res with r0 := powMod s.op.o0 s.op.o1 s.op.o2 } 0b00001 s) := if_neg h

/-- Settles O30: the word is the command's encoding, and the modulus check decides between the fatal end and the success
end. -/
theorem powerCompletes : Obligations.PowerCompletes := by
  refine ⟨decode_encode .modpow, fun s => ?_⟩
  by_cases h : s.op.o2 = 0
  · rw [if_pos h, exec_modpow_of_zero h]
    exact haltsWith_endFatal _ _
  · rw [if_neg h]
    refine ⟨_, powMod_toNat _ _ h, ?_⟩
    rw [exec_modpow_of_ne_zero h]
    exact endsWith_endSuccess _ _ _

end Sys2Proof.Machine
end

section
/-!
PROOF. The Euclid commands: the coefficients of `ExtendedEuclid` satisfy Bézout's equation when read as two's complement
(R171), the iterative Euclid unit comes to the recursion's result (R172), and `EGCD`, `GCD` and `MODINV` (R176 to R178).
-/
namespace Sys2Proof.Machine

/-! ### Bézout's equation over the integers -/

/-- A coefficient that fits 64 signed bits is read back from its word (R10). -/
theorem signed_ofInt {x : Int} (h : 2 * |x| < 2 ^ 64) : signed (BitVec.ofInt 64 x) = x := by
  obtain ⟨hlo, hhi⟩ := abs_lt.1 (show |x| < 2 ^ 63 by omega)
  exact BitVec.toInt_ofInt_eq_self (by decide) hlo.le hhi

theorem egcdRec_zero (fuel : Nat) (a : Word) : egcdRec fuel a 0 = (a, 1, 0) := by
  cases fuel <;> rfl

/-- One call of R170: division, and back-substitution. -/
theorem egcdRec_succ (fuel : Nat) (a : Word) {b : Word} (hb : b ≠ 0) :
    egcdRec (fuel + 1) a b =
      ((egcdRec fuel b (modOf a b)).1, (egcdRec fuel b (modOf a b)).2.2,
        (egcdRec fuel b (modOf a b)).2.1 - quotOf a b * (egcdRec fuel b (modOf a b)).2.2) := if_neg hb

/-- When `b` divides `a` (`a = 0` among them) the coefficients are 0 and 1 (R171: `ExtendedEuclid(a, a)`,
`ExtendedEuclid(0, b)`). -/
theorem extendedEuclid_of_modOf_eq_zero {a b : Word} (hb : b ≠ 0) (h : modOf a b = 0) :
    extendedEuclid a b = (b, 0, 1) := by
  rw [extendedEuclid, euclidFuel, egcdRec_succ 129 a hb, h, egcdRec_zero, mul_zero, sub_zero]

/-- For arguments in rising order the bound on `y` follows from the one on `x`, by Bézout's equation (R171). -/
theorem two_mul_abs_lt_of_bezout {a b g : Nat} {x y : Int} (hab : a < b) (hg : g ≤ a) (hx : 2 * |x| ≤ b)
    (hbezout : a * x + b * y = g) : 2 * |y| < a + 2 := by
  have hb : (0 : Int) < b := by omega
  refine lt_of_mul_lt_mul_left (?_ : (b : Int) * (2 * |y|) < b * (a + 2)) hb.le
  calc (b : Int) * (2 * |y|) = 2 * |g - a * x| := by
        rw [← hbezout, add_sub_cancel_left, abs_mul, Nat.abs_cast]
        ring
    _ ≤ 2 * (g + a * |x|) := by
        have := abs_sub (g : Int) (a * x)
        rw [abs_mul, Nat.abs_cast, Nat.abs_cast] at this
        omega
    _ = 2 * g + a * (2 * |x|) := by ring
    _ ≤ 2 * a + a * b := by
        have := mul_le_mul_of_nonneg_left hx (Int.natCast_nonneg a)
        omega
    _ < b * (a + 2) := by
        rw [mul_add, mul_comm (b : Int) a]
        omega

/-- Unless `b` divides `a`, the second coefficient fits 64 signed bits (R171). -/
theorem second_coefficient_fits {a b : Word} {x y : Int} (hmod : a.toNat % b.toNat ≠ 0) (hx : 2 * |x| ≤ b.toNat)
    (hy : b.toNat < a.toNat → 2 * |y| ≤ a.toNat)
    (hbezout : a.toNat * x + b.toNat * y = (Nat.gcd a.toNat b.toNat : Int)) : 2 * |y| < 2 ^ 64 := by
  have ha := a.isLt
  have hb := b.isLt
  rcases lt_trichotomy a.toNat b.toNat with hlt | heq | hgt
  · have hpos : 0 < a.toNat := Nat.pos_of_ne_zero fun h0 => hmod (by rw [h0, Nat.zero_mod])
    have hbound := two_mul_abs_lt_of_bezout hlt (Nat.gcd_le_left _ hpos) hx hbezout
    omega
  · exact absurd (by rw [heq, Nat.mod_self]) hmod
  · have hbound := hy hgt
    omega

/-- The coefficients, read as two's complement, satisfy Bézout's equation: the wrapping arithmetic of R170 loses no bit
(R171). -/
theorem extendedEuclid_bezout (a b : Word) :
    (a.toNat : Int) * signed (extendedEuclid a b).2.1 + b.toNat * signed (extendedEuclid a b).2.2 =
      Nat.gcd a.toNat b.toNat := by
  obtain ⟨hg, x, y, hx, hy, hbezout, hlast, hbound⟩ := extendedEuclid_result a b
  by_cases hb : b = 0
  · obtain ⟨rfl, rfl⟩ := hlast hb
    rw [hx, hy, signed_ofInt (by decide), signed_ofInt (by decide), hbezout]
  by_cases hmod : modOf a b = 0
  · rw [← hg, extendedEuclid_of_modOf_eq_zero hb hmod, show signed 0 = 0 from rfl, show signed 1 = 1 from rfl, mul_zero,
      zero_add, mul_one]
  · obtain ⟨hxle, hyle⟩ := hbound hb
    have hmod' : a.toNat % b.toNat ≠ 0 := fun h0 => hmod (BitVec.eq_of_toNat_eq ((modOf_toNat a hb).trans h0))
    have hblt := b.isLt
    rw [hx, hy, signed_ofInt (by omega), signed_ofInt (second_coefficient_fits hmod' hxle hyle hbezout), hbezout]

/-! ### The iterative unit -/

/-- One pass through `E_DIV` and `E_UPD` (R172). -/
theorem eucStep_euc (u : Alu) :
    (eucStep u).euc =
      ⟨u.euc.r1, modOf u.euc.r0 u.euc.r1, u.euc.s1, u.euc.s0 - quotOf u.euc.r0 u.euc.r1 * u.euc.s1,
        u.euc.t1, u.euc.t0 - quotOf u.euc.r0 u.euc.r1 * u.euc.t1⟩ := rfl

/-- A pair of coefficient registers `(c0, c1)` combined with the coefficients of a call of `ExtendedEuclid`: a row of R172's
matrix product. -/
def combine (t : Word × Word × Word) (c0 c1 : Word) : Word := t.2.1 * c0 + t.2.2 * c1

/-- The base case `(a, 1, 0)` leaves the first register of a pair. -/
@[simp] theorem combine_one_zero (a c0 c1 : Word) : combine (a, 1, 0) c0 c1 = c0 := by
  simp [combine]

/-- A division step on the coefficient registers is the back-substitution of the recursion (R172). -/
theorem combine_step (t : Word × Word × Word) (q c0 c1 : Word) :
    combine t c1 (c0 - q * c1) = combine (t.1, t.2.2, t.2.1 - q * t.2.2) c0 c1 := by
  unfold combine
  ring

/-- From any registers, the loop comes to the recursion's gcd of the remainder pair, and to its coefficients combined with the
coefficient pairs (R172). -/
theorem eucLoop_euc (fuel : Nat) (u : Alu) :
    (eucLoop fuel u).euc.r0 = (egcdRec fuel u.euc.r0 u.euc.r1).1 ∧
      (eucLoop fuel u).euc.s0 = combine (egcdRec fuel u.euc.r0 u.euc.r1) u.euc.s0 u.euc.s1 ∧
      (eucLoop fuel u).euc.t0 = combine (egcdRec fuel u.euc.r0 u.euc.r1) u.euc.t0 u.euc.t1 := by
  induction fuel generalizing u with
  | zero => exact ⟨rfl, (combine_one_zero _ _ _).symm, (combine_one_zero _ _ _).symm⟩
  | succ fuel ih =>
    rw [eucLoop]
    split_ifs with h
    · rw [h, egcdRec_zero]
      exact ⟨rfl, (combine_one_zero _ _ _).symm, (combine_one_zero _ _ _).symm⟩
    · have hstep := ih (eucStep u)
      simp only [eucStep_euc, combine_step] at hstep
      rw [egcdRec_succ fuel _ h]
      exact hstep

/-- Settles O34: started from the coefficient pairs `(1, 0)` and `(0, 1)`, the loop's combinations are the coefficients
themselves. -/
theorem iterativeEuclidEqualsRecursive : Obligations.IterativeEuclidEqualsRecursive := by
  intro a b u
  obtain ⟨hr, hs, ht⟩ := eucLoop_euc euclidFuel { u with euc := ⟨a, b, 1, 0, 0, 1⟩ }
  rw [runEuclid, hr, hs, ht]
  simp [combine, extendedEuclid]

/-! ### `EGCD` and `GCD` -/

/-- `EGCD` (R176). -/
theorem exec_egcd (s : State) :
    exec .egcd s = .next (endSuccess { s.res with
      r0 := (extendedEuclid s.op.o0 s.op.o1).1
      r1 := (extendedEuclid s.op.o0 s.op.o1).2.1
      r2 := (extendedEuclid s.op.o0 s.op.o1).2.2 } 0b00111 s) := rfl

/-- `GCD` (R177). -/
theorem exec_gcd (s : State) :
    exec .gcd s = .next (endSuccess { s.res with r0 := gcdOf s.op.o0 s.op.o1 } 0b00001 s) := rfl

/-- Settles O33: both commands end with components of `ExtendedEuclid`, whose values are known. -/
theorem euclidCompletes : Obligations.EuclidCompletes := by
  refine ⟨decode_encode .egcd, decode_encode .gcd, fun s => ⟨_, _, _, rfl, gcdOf_toNat _ _, ?_, ?_, ?_⟩⟩
  · exact (extendedEuclid_bezout _ _).trans (congrArg _ (gcdOf_toNat _ _).symm)
  · rw [exec_egcd]
    exact endsWith_endSuccess _ _ _
  · rw [exec_gcd]
    exact endsWith_endSuccess _ _ _

/-! ### `MODINV` -/

/-- When the correction of R174 comes to a value below the modulus, it has added the modulus to the signed coefficient
exactly once or not at all. -/
theorem invFix_toNat {x m : Word} (h : (invFix x m).toNat < m.toNat) :
    ((invFix x m).toNat : Int) = signed x + if x.getLsbD 63 then (m.toNat : Int) else 0 := by
  have hx := x.isLt
  have hsigned : signed x = if x.getLsbD 63 then (x.toNat : Int) - (2 ^ 64 : Nat) else (x.toNat : Int) := by
    rw [signed, BitVec.toInt_eq_msb_cond, BitVec.msb_eq_getLsbD_last]
  unfold invFix at h ⊢
  rw [hsigned]
  split_ifs with hneg
  · rw [if_pos hneg, BitVec.toNat_add] at h
    rw [BitVec.toNat_add]
    omega
  · rw [add_zero]

/-- `(inv * a) mod m = g mod m` in every case (R175). -/
theorem modInv_mul_modEq (a : Word) {m : Word} (hm : m ≠ 0) :
    (modInv a m).toNat * a.toNat ≡ Nat.gcd a.toNat m.toNat [MOD m.toNat] := by
  have hfix : (modInv a m).toNat ≡ signed (extendedEuclid a m).2.1 [ZMOD m.toNat] := by
    rw [modInv, invFix_toNat (modInv_lt a hm)]
    split_ifs
    · exact Int.add_modEq_right
    · rw [add_zero]
  rw [← Int.natCast_modEq_iff, Nat.cast_mul]
  calc ((modInv a m).toNat : Int) * a.toNat
    _ ≡ signed (extendedEuclid a m).2.1 * a.toNat [ZMOD m.toNat] := hfix.mul_right _
    _ ≡ a.toNat * signed (extendedEuclid a m).2.1 + m.toNat * signed (extendedEuclid a m).2.2 [ZMOD m.toNat] := by
        rw [mul_comm]
        exact (Int.modEq_add_fac_self).symm
    _ = Nat.gcd a.toNat m.toNat := extendedEuclid_bezout a m

theorem exec_modinv_of_zero {s : State} (h : s.op.o1 = 0) : exec .modinv s = .next (endFatal .zeroModulus s) := if_pos h

/-- `MODINV` with a modulus (R178). -/
theorem exec_modinv_of_ne_zero {s : State} (h : s.op.o1 ≠ 0) :
    exec .modinv s = .next (endSuccess { s.res with
      r0 := modInv s.op.o0 s.op.o1
      r1 := gcdOf s.op.o0 s.op.o1 } 0b00011 s) := if_neg h

/-- Settles O35: the modulus check decides between the fatal end and the success end, and the value lies below the modulus
whether or not the operands are coprime. -/
theorem modInvCompletes : Obligations.ModInvCompletes := by
  refine ⟨decode_encode .modinv, fun s => ?_⟩
  by_cases h : s.op.o1 = 0
  · rw [if_pos h, exec_modinv_of_zero h]
    exact haltsWith_endFatal _ _
  · rw [if_neg h]
    refine ⟨modInv s.op.o0 s.op.o1, gcdOf s.op.o0 s.op.o1, _, _, rfl, rfl, gcdOf_toNat _ _, ?_,
      fun _ => modInv_lt _ h, ?_⟩
    · rw [gcdOf_toNat]
      exact modInv_mul_modEq _ h
    · rw [exec_modinv_of_ne_zero h]
      exact endsWith_endSuccess _ _ _

end Sys2Proof.Machine
end

section
/-!
PROOF. One round of the primality test (R191, R193): the decomposition of `N - 1`, the values a round compares, and that the
rounds for 2 and 3 accept every prime (R196 (b)).
-/
namespace Sys2Proof.Machine

/-- A candidate of R190 is neither of the two that `ISPRIME` refuses. -/
theorem ne_zero_and_ne_one_of_two_le {n : Word} (h : 2 ≤ n.toNat) : n ≠ 0 ∧ n ≠ 1 := by
  constructor
  all_goals
    rintro rfl
    exact absurd h (by decide)

/-! ### The decomposition -/

theorem getLsbD_zero_eq_true_iff (v : Word) : v.getLsbD 0 = true ↔ v.toNat % 2 = 1 := by
  rw [BitVec.getLsbD, Nat.testBit_zero, decide_eq_true_iff]

/-- The loop of R191 makes `k` halvings, fewer than its count, and ends with the odd part of `d`; `s` counts the halvings. -/
theorem decompose_spec (fuel : Nat) (d s : Word) (hd : 0 < d.toNat) (hlt : d.toNat < 2 ^ fuel)
    (hs : s.toNat + fuel < 2 ^ 64) :
    ∃ k < fuel, (decompose fuel d s).1.toNat % 2 = 1 ∧ (decompose fuel d s).2.toNat = s.toNat + k ∧
      d.toNat = 2 ^ k * (decompose fuel d s).1.toNat := by
  induction fuel generalizing d s with
  | zero => omega
  | succ fuel ih =>
    unfold decompose
    by_cases hodd : d.getLsbD 0 = true
    · rw [if_pos hodd]
      exact ⟨0, fuel.succ_pos, (getLsbD_zero_eq_true_iff d).1 hodd, rfl, by rw [pow_zero, one_mul]⟩
    · rw [if_neg hodd]
      rw [getLsbD_zero_eq_true_iff] at hodd
      have hhalf : d.toNat = 2 * (d >>> 1).toNat := by
        rw [shiftRight_one_toNat]
        omega
      have hcount : (s + 1).toNat = s.toNat + 1 := BitVec.toNat_add_of_lt (show s.toNat + 1 < 2 ^ 64 by omega)
      rw [pow_succ'] at hlt
      obtain ⟨k, hk, hend, hs', hprod⟩ := ih (d >>> 1) (s + 1) (by omega) (by omega) (by omega)
      refine ⟨k + 1, by omega, hend, by omega, ?_⟩
      rw [hhalf, hprod, pow_succ', mul_assoc]

/-- Settles O36: `N - 1` is not 0 and has 64 bits. -/
theorem decompositionIsOddTimesPowerOfTwo : Obligations.DecompositionIsOddTimesPowerOfTwo := by
  intro n hn
  have hpred := sub_one_toNat (v := n) (by omega)
  obtain ⟨k, hk, hodd, hs, hprod⟩ := decompose_spec 64 (n - 1) 0 (by omega) (n - 1).isLt (by decide)
  have hs' : (decompose 64 (n - 1) 0).2.toNat = k := hs.trans (Nat.zero_add k)
  exact ⟨hodd, by omega, by rw [hs', ← hpred, hprod]⟩

/-- An odd number times a power of two determines both. -/
theorem two_pow_mul_odd_injective {s s' d d' : Nat} (hd : d % 2 = 1) (hd' : d' % 2 = 1) (h : 2 ^ s * d = 2 ^ s' * d') :
    s = s' ∧ d = d' := by
  induction s generalizing s' with
  | zero =>
    cases s' with
    | zero => simpa using h
    | succ s' => rw [pow_succ', mul_assoc] at h; omega
  | succ s ih =>
    rw [pow_succ', mul_assoc] at h
    cases s' with
    | zero => omega
    | succ s' =>
      rw [pow_succ', mul_assoc] at h
      obtain ⟨rfl, rfl⟩ := ih (Nat.eq_of_mul_eq_mul_left two_pos h)
      exact ⟨rfl, rfl⟩

/-! ### The comparisons -/

/-- The comparisons of a round look for `N - 1` among `x`, `x^2`, `x^4`, ... (R193). -/
theorem roundCmp_iff {n : Word} (hn : 2 ≤ n.toNat) (left : Nat) (x : Word) (hx : x.toNat < n.toNat) :
    roundCmp n left x = true ↔ ∃ r < left, x.toNat ^ 2 ^ r % n.toNat = n.toNat - 1 := by
  obtain ⟨hne, -⟩ := ne_zero_and_ne_one_of_two_le hn
  induction left generalizing x with
  | zero => simp [roundCmp]
  | succ left ih =>
    have hfirst : x = n - 1 ↔ x.toNat ^ 2 ^ 0 % n.toNat = n.toNat - 1 := by
      rw [← BitVec.toNat_inj, sub_one_toNat (by omega), pow_zero, pow_one, Nat.mod_eq_of_lt hx]
    have hnext (r : Nat) : (prodMod x x n).toNat ^ 2 ^ r % n.toNat = x.toNat ^ 2 ^ (r + 1) % n.toNat := by
      rw [prodMod_toNat _ _ hne, ← Nat.pow_mod, ← pow_two, ← pow_mul, pow_succ']
    simp only [roundCmp, Bool.if_true_left, Bool.or_eq_true, decide_eq_true_iff, hfirst,
      ih (prodMod x x n) (residue_lt _ hne), hnext, Nat.exists_lt_succ_left]

/-- Settles O37: the decomposition of R191 is the given one, and each comparison is with the next square of `a^d`. -/
theorem roundComparesTheSquarings : Obligations.RoundComparesTheSquarings := by
  intro n a s d hn hd hprod
  obtain ⟨hne, -⟩ := ne_zero_and_ne_one_of_two_le hn
  obtain ⟨hodd, -, hdec⟩ := decompositionIsOddTimesPowerOfTwo n hn
  obtain ⟨hs, hd⟩ := two_pow_mul_odd_injective hodd hd (hdec.symm.trans hprod)
  have hd0 : (decompose 64 (n - 1) 0).1 ≠ 0 := by
    intro h
    rw [h] at hodd
    cases hodd
  have hx : (powMod a (decompose 64 (n - 1) 0).1 n).toNat = a.toNat ^ d % n.toNat := by
    rw [powMod_toNat _ _ hne, if_neg hd0, hd]
  have hlt : a.toNat ^ d % n.toNat < n.toNat := Nat.mod_lt _ (by omega)
  have hone : powMod a (decompose 64 (n - 1) 0).1 n = 1 ↔ a.toNat ^ d % n.toNat = 1 := by
    rw [← BitVec.toNat_inj, hx]
    rfl
  simp only [roundAccepts, Bool.if_true_left, Bool.or_eq_true, decide_eq_true_iff, hone,
    roundCmp_iff hn _ _ (hx ▸ hlt), hx, hs, ← Nat.pow_mod, ← pow_mul, mul_comm d]

/-! ### Primes -/

/-- In a domain, a power of `a` that is 1 is reached through `a^d = 1` or through a square root of 1 that is -1. -/
theorem pow_eq_one_or_exists_pow_eq_neg_one {R : Type*} [Ring R] [NoZeroDivisors R] {a : R} {s d : Nat}
    (h : a ^ (2 ^ s * d) = 1) : a ^ d = 1 ∨ ∃ r < s, a ^ (2 ^ r * d) = -1 := by
  induction s with
  | zero => exact .inl (by simpa using h)
  | succ s ih =>
    rw [pow_succ', mul_assoc, two_mul, pow_add] at h
    rcases mul_self_eq_one_iff.1 h with h | h
    · exact (ih h).imp_right fun ⟨r, hr, heq⟩ => ⟨r, hr.trans s.lt_succ_self, heq⟩
    · exact .inr ⟨s, s.lt_succ_self, h⟩

/-- The round for a base that a prime `N` does not divide accepts: the chain of squares from `a^d` ends in `a^(N-1) = 1`
(R196 (b)). -/
theorem roundAccepts_of_prime {n a : Word} (hp : Nat.Prime n.toNat) (ha : ¬n.toNat ∣ a.toNat) :
    roundAccepts n a = true := by
  obtain ⟨hodd, -, hdec⟩ := decompositionIsOddTimesPowerOfTwo n hp.two_le
  rw [roundComparesTheSquarings n a _ _ hp.two_le hodd hdec]
  have : Fact n.toNat.Prime := ⟨hp⟩
  have ha0 : (a.toNat : ZMod n.toNat) ≠ 0 := (ZMod.natCast_eq_zero_iff _ _).not.2 ha
  have hfermat := ZMod.pow_card_sub_one_eq_one ha0
  rw [hdec] at hfermat
  have hone (e : Nat) (h : (a.toNat : ZMod n.toNat) ^ e = 1) : a.toNat ^ e % n.toNat = 1 := by
    rw [← Nat.cast_pow, ← Nat.cast_one, ZMod.natCast_eq_natCast_iff', Nat.mod_eq_of_lt hp.one_lt] at h
    exact h
  have hneg (e : Nat) (h : (a.toNat : ZMod n.toNat) ^ e = -1) : a.toNat ^ e % n.toNat = n.toNat - 1 := by
    have hcast : ((n.toNat - 1 : Nat) : ZMod n.toNat) = -1 := by
      rw [Nat.cast_sub hp.one_le, ZMod.natCast_self, Nat.cast_one, zero_sub]
    rw [← hcast, ← Nat.cast_pow, ZMod.natCast_eq_natCast_iff', Nat.mod_eq_of_lt (Nat.sub_lt hp.pos one_pos)] at h
    exact h
  exact (pow_eq_one_or_exists_pow_eq_neg_one hfermat).imp (hone _) fun ⟨r, hr, h⟩ => ⟨r, hr, hneg _ h⟩

/-- Some fixed base accepts every prime: 2 is divided by no other prime, and 3 accepts 2 (R196 (b)). -/
theorem fixedBaseAccepts_of_prime {n : Word} (hp : Nat.Prime n.toNat) : fixedBaseAccepts n = true := by
  by_cases h2 : n = 2
  · rw [h2]
    exact fixedBaseAccepts_two_three.1
  · have hdvd : ¬n.toNat ∣ (2 : Word).toNat := fun h =>
      h2 (BitVec.eq_of_toNat_eq ((Nat.prime_dvd_prime_iff_eq hp Nat.prime_two).1 h))
    exact List.any_eq_true.2 ⟨2, List.mem_cons_self, roundAccepts_of_prime hp hdvd⟩

end Sys2Proof.Machine
end

section
/-!
PROOF. A test with drawn bases, of `ISPRIME` and of either candidate of `KEYGEN`, run over its answers (R192, R194, R195), and
the completion and the verdicts of `ISPRIME` (R196, R197).
-/
namespace Sys2Proof.Machine

/-! ### The unit between two rounds -/

/-- A test of `c` with this repeat count has had `k` rounds, and the unit's registers hold its decomposition (R198). -/
def Testing (c rep : Word) (k : Nat) (w : Work) : Prop :=
  DecomposedIn w ∧ w.mr.n = c ∧ w.mr.rounds = roundsOf rep ∧ w.mr.k = k

theorem roundsOf_toNat (rep : Word) : (roundsOf rep).toNat = max 7 rep.toNat := by
  unfold roundsOf Config.nb
  split_ifs with h
  · exact (max_eq_left h).symm
  · exact (max_eq_right (Nat.le_of_not_le h)).symm

/-- A fixed base that accepts ends the test with true (R194). -/
theorem mrBegin_of_accepted {c : Word} (rep : Word) (w : Work) (h : fixedBaseAccepts c = true) :
    (mrBegin c rep w).1 = .yes :=
  (mrFixed_spec Config.mrBases (mrLoad c rep w) (mrLoad_spec c rep w).1).2.1 h

/-- Seven fixed bases that do not accept end the test with false, unless more rounds are planned (R192, R194). -/
theorem mrBegin_of_not_accepted {c rep : Word} (w : Work) (h : fixedBaseAccepts c = false) :
    (mrBegin c rep w).1 = (if 7 < rep.toNat then .draw else .no) ∧ Testing c rep 7 (mrBegin c rep w).2 := by
  obtain ⟨hload, -⟩ := mrLoad_spec c rep w
  obtain ⟨hsame, -, hnone⟩ := mrFixed_spec Config.mrBases (mrLoad c rep w) hload
  obtain ⟨hk, hverdict⟩ := hnone h
  refine ⟨hverdict.trans ?_, hload.of_sameTest hsame, hsame.n, hsame.rounds, hk⟩
  have hiff : 7 < (roundsOf rep).toNat ↔ 7 < rep.toNat := by rw [roundsOf_toNat]; omega
  exact if_congr hiff rfl rfl

/-- A drawn base that accepts ends the test with true (R194). -/
theorem Testing.mrDrawn_of_accepted {c rep b : Word} {k : Nat} {w : Work} (h : Testing c rep k w)
    (hb : roundAccepts c b = true) : (mrDrawn b w).1 = .yes := by
  obtain ⟨hdec, rfl, -, -⟩ := h
  exact (mrDrawn_spec b w hdec).2.1 hb

/-- A drawn base that does not accept ends the test with false when its round was the last, and another is drawn else
(R194). -/
theorem Testing.mrDrawn_of_not_accepted {c rep b : Word} {k : Nat} {w : Work} (h : Testing c rep k w) (hk : 7 ≤ k)
    (hb : roundAccepts c b = false) :
    (mrDrawn b w).1 = (if k + 1 < rep.toNat then .draw else .no) ∧ Testing c rep (k + 1) (mrDrawn b w).2 := by
  obtain ⟨hdec, rfl, hrounds, rfl⟩ := h
  obtain ⟨hsame, -, hnone⟩ := mrDrawn_spec b w hdec
  obtain ⟨hnext, hverdict⟩ := hnone hb
  refine ⟨hverdict.trans ?_, hdec.of_sameTest hsame, hsame.n, hsame.rounds.trans hrounds, hnext⟩
  have hiff : w.mr.k + 1 < w.mr.rounds.toNat ↔ w.mr.k + 1 < rep.toNat := by rw [hrounds, roundsOf_toNat]; omega
  exact if_congr hiff rfl rfl

/-! ### The draws of one test -/

/-- In the stage `g` an answer is the next base of a test, and `after` is what follows from the verdict (R198, R220). -/
structure TestStage (par : Config.Params) (g : Stage) (after : Verdict → State → State) : Prop where
  takes : ∀ v s, s.mode = .busy g → takeAnswer par v s = .next (baseAnswer v after (takeFromPort v s))
  draws : after .draw = presentBase g

theorem testStage_isprime (par : Config.Params) : TestStage par .isPrimeWait isprimeFrom :=
  ⟨fun _ _ h => by rw [takeAnswer, h]; rfl, rfl⟩

theorem testStage_p (par : Config.Params) : TestStage par .testPWait (afterTestP par) :=
  ⟨fun _ _ h => by rw [takeAnswer, h], rfl⟩

theorem testStage_q (par : Config.Params) : TestStage par .testQWait (afterTestQ par) :=
  ⟨fun _ _ h => by rw [takeAnswer, h], rfl⟩

/-- `y` is the block `x` after its test of `c` has drawn these bases: the trace has the draws, the unit has worked, and
everything but the sequencer's position and the port is as it was. -/
def Drew (c : Word) (bs : List Word) (x y : State) : Prop :=
  ∃ m p w, w.mr.n = c ∧ w.kg = x.work.kg ∧
    y = { x with mode := m, port := p, work := w, trace := tracedDraws ⟨2, c - 1⟩ bs x.trace }

theorem tracedDraws_concat (req : Request) (bs : List Word) (b : Word) (tr : List Obs) :
    tracedDraws req (bs ++ [b]) tr = .answered b :: .request req.lo req.hi :: tracedDraws req bs tr := by
  induction bs generalizing tr with
  | nil => rfl
  | cons v bs ih => exact ih _

theorem answers_concat (bs : List Word) (b : Word) (l : List EnvEvent) :
    answers (bs ++ [b]) ++ l = answers bs ++ .answer b :: l := by
  simp [answers]

/-- A test before its first round. -/
theorem Drew.begin (c rep : Word) (x : State) : Drew c [] x (x.withWork (mrBegin c rep x.work).2) :=
  ⟨_, _, _, (mrBegin_keeps c rep x.work).1, (mrBegin_keeps c rep x.work).2, rfl⟩

/-- One more base drawn. -/
theorem Drew.concat {c : Word} {bs : List Word} {x y : State} (h : Drew c bs x y) (g : Stage) (b : Word) :
    Drew c (bs ++ [b]) x ((takeFromPort b (presentBase g y)).withWork (mrDrawn b y.work).2) := by
  obtain ⟨m, p, w, hn, hkg, rfl⟩ := h
  refine ⟨.busy g, none, _, (sameTest_mrDrawn b w).n.trans hn, (sameTest_mrDrawn b w).kg.trans hkg, ?_⟩
  rw [tracedDraws_concat, ← hn]
  rfl

/-- A test that waits takes the answer that stands next as its base (R198 `T_WAIT`). -/
theorem TestStage.drain_base {par : Config.Params} {g : Stage} {after : Verdict → State → State}
    (hg : TestStage par g after) (y : State) (b : Word) (l : List EnvEvent) :
    drain par (.answer b :: l) (presentBase g y) =
      drain par l (after (mrDrawn b y.work).1 ((takeFromPort b (presentBase g y)).withWork (mrDrawn b y.work).2)) := by
  rw [drain_answer par b l (presentBase g y) _ rfl, hg.takes b (presentBase g y) rfl]
  rfl

/-- A test that goes on over its draws from `x` has come to the verdict `v` at `y`, with the list `l` still to come. -/
def ComesTo (par : Config.Params) (after : Verdict → State → State) (rep c : Word) (x : State) (bs : List Word)
    (l : List EnvEvent) (v : Verdict) (y : State) : Prop :=
  Drew c bs x y ∧
    drain par (answers bs ++ l) (after (mrBegin c rep x.work).1 (x.withWork (mrBegin c rep x.work).2)) =
      drain par l (after v y)

section
variable {par : Config.Params} {g : Stage} {after : Verdict → State → State} {rep c : Word} {bs : List Word}

theorem TestUndecided.of_concat {b : Word} (h : TestUndecided rep c (bs ++ [b])) :
    TestUndecided rep c bs ∧ roundAccepts c b = false := by
  obtain ⟨h2, hfixed, hnone, hlt⟩ := h
  rw [List.length_append] at hlt
  exact ⟨⟨h2, hfixed, fun v hv => hnone v (List.mem_append_left _ hv), by omega⟩, hnone b (by simp)⟩

/-- While a test is undecided the next base is asked for, and one round has been made for each base (R195). -/
theorem TestStage.undecided (hg : TestStage par g after) (h : TestUndecided rep c bs) (x : State) (l : List EnvEvent) :
    ∃ y, ComesTo par after rep c x bs l .draw y ∧ Testing c rep (7 + bs.length) y.work := by
  induction bs using List.reverseRecOn generalizing l with
  | nil =>
    obtain ⟨-, hfixed, -, hlt⟩ := h
    obtain ⟨hverdict, htest⟩ := mrBegin_of_not_accepted (rep := rep) x.work hfixed
    refine ⟨_, ⟨Drew.begin c rep x, ?_⟩, htest⟩
    rw [hverdict, if_pos (show 7 < rep.toNat from hlt)]
    rfl
  | append_singleton bs b ih =>
    obtain ⟨hbs, hb⟩ := h.of_concat
    obtain ⟨-, -, -, hlt⟩ := h
    rw [List.length_append] at hlt
    obtain ⟨y, ⟨hdrew, hdrain⟩, htest⟩ := ih hbs (.answer b :: l)
    obtain ⟨hverdict, htest'⟩ := htest.mrDrawn_of_not_accepted (Nat.le_add_right 7 _) hb
    refine ⟨_, ⟨hdrew.concat g b, ?_⟩, List.length_append ▸ htest'⟩
    rw [answers_concat, hdrain, hg.draws, hg.drain_base, hverdict,
      if_pos (show 7 + bs.length + 1 < rep.toNat from hlt), hg.draws]

/-- The last base of a test decides it (R194). -/
theorem TestStage.last_base (hg : TestStage par g after) (h : TestUndecided rep c bs) (x : State) (b : Word)
    (l : List EnvEvent) {v : Verdict}
    (hv : ∀ w, Testing c rep (7 + bs.length) w → (mrDrawn b w).1 = v) :
    ∃ y, ComesTo par after rep c x (bs ++ [b]) l v y := by
  obtain ⟨y, ⟨hdrew, hdrain⟩, htest⟩ := hg.undecided h x (.answer b :: l)
  refine ⟨_, hdrew.concat g b, ?_⟩
  rw [answers_concat, hdrain, hg.draws, hg.drain_base, hv _ htest]

/-- A test that passes ends with true at its first accepting base (R194). -/
theorem TestStage.passes (hg : TestStage par g after) (h : TestPasses rep c bs) (x : State) (l : List EnvEvent) :
    ∃ y, ComesTo par after rep c x bs l .yes y := by
  rcases h with ⟨-, hfixed, rfl⟩ | ⟨fails, a, rfl, hfails, ha⟩
  · refine ⟨_, Drew.begin c rep x, ?_⟩
    rw [mrBegin_of_accepted rep x.work hfixed]
    rfl
  · exact hg.last_base hfails x a l fun w hw => hw.mrDrawn_of_accepted ha

/-- A test that fails ends with false when its rounds are used up (R194). -/
theorem TestStage.fails (hg : TestStage par g after) (h : TestFails rep c bs) (x : State) (l : List EnvEvent) :
    ∃ y, ComesTo par after rep c x bs l .no y := by
  obtain ⟨h2, hfixed, hnone, hlen⟩ := h
  cases bs using List.reverseRecOn with
  | nil =>
    refine ⟨_, Drew.begin c rep x, ?_⟩
    rw [(mrBegin_of_not_accepted x.work hfixed).1, if_neg (by rw [List.length_nil] at hlen; omega)]
    rfl
  | append_singleton bs b =>
    rw [List.length_append, List.length_singleton] at hlen
    have hbs : TestUndecided rep c bs := ⟨h2, hfixed, fun v hv => hnone v (List.mem_append_left _ hv), by omega⟩
    refine hg.last_base hbs x b l fun w hw => ?_
    rw [(hw.mrDrawn_of_not_accepted (Nat.le_add_right 7 _) (hnone b (by simp))).1, if_neg (by omega)]

end

/-! ### `ISPRIME` -/

/-- `ISPRIME` runs its test over the answers (R195, R197). -/
theorem exec_isprime_of_two_le {s : State} (h : 2 ≤ s.op.o0.toNat) :
    exec .isprime s = drain Config.params s.env (isprimeBegin s) := by
  obtain ⟨h0, h1⟩ := ne_zero_and_ne_one_of_two_le h
  exact execIsprime_of_not_refused h0 h1

/-- A test that comes to a verdict ends `ISPRIME`, and what stands in the list after it is not taken (R72, R197). -/
theorem endsWith_of_comesTo {s y : State} {bs : List Word} {l : List EnvEvent} {v : Verdict} {val : Word}
    (h2 : 2 ≤ s.op.o0.toNat) (henv : s.env = answers bs ++ l)
    (hv : ∀ x, isprimeFrom v x = endSuccess (x.res.set0 val) 0b00001 x)
    (h : ComesTo Config.params isprimeFrom s.op.o1 s.op.o0 s bs l v y) :
    EndsWith { s.res with r0 := val } 0b00001
      { s with env := l, trace := tracedDraws ⟨2, s.op.o0 - 1⟩ bs s.trace } (exec .isprime s) := by
  obtain ⟨⟨m, p, w, -, -, rfl⟩, hdrain⟩ := h
  rw [exec_isprime_of_two_le h2, henv, isprimeBegin, operand0_eq, operand1_eq, hdrain, hv, drain_of_port_none _ _ _ rfl]
  exact endsWith_endSuccess _ _ _

/-- `ISPRIME` ends with 1 when its test passes (R197). -/
theorem endsWith_one_of_passes {s : State} {bs : List Word} {l : List EnvEvent} (h2 : 2 ≤ s.op.o0.toNat)
    (henv : s.env = answers bs ++ l) (h : TestPasses s.op.o1 s.op.o0 bs) :
    EndsWith { s.res with r0 := 1 } 0b00001
      { s with env := l, trace := tracedDraws ⟨2, s.op.o0 - 1⟩ bs s.trace } (exec .isprime s) := by
  obtain ⟨y, hy⟩ := (testStage_isprime Config.params).passes h s l
  exact endsWith_of_comesTo h2 henv (fun _ => rfl) hy

/-- `ISPRIME` ends with 0 when its test fails (R197). -/
theorem endsWith_zero_of_fails {s : State} {bs : List Word} {l : List EnvEvent} (h2 : 2 ≤ s.op.o0.toNat)
    (henv : s.env = answers bs ++ l) (h : TestFails s.op.o1 s.op.o0 bs) :
    EndsWith { s.res with r0 := 0 } 0b00001
      { s with env := l, trace := tracedDraws ⟨2, s.op.o0 - 1⟩ bs s.trace } (exec .isprime s) := by
  obtain ⟨y, hy⟩ := (testStage_isprime Config.params).fails h s l
  exact endsWith_of_comesTo h2 henv (fun _ => rfl) hy

/-- Settles O38: a test that draws no base passes or fails on the fixed bases alone. -/
theorem isprimeCompletesWithoutDraws : Obligations.IsprimeCompletesWithoutDraws := by
  refine fun s h2 => ⟨fun hfixed => ?_, fun hfixed hrep => ?_⟩
  · exact endsWith_one_of_passes (bs := []) h2 rfl (.inl ⟨h2, hfixed, rfl⟩)
  · exact endsWith_zero_of_fails (bs := []) h2 rfl ⟨h2, hfixed, nofun, (Nat.sub_eq_zero_of_le hrep).symm⟩

/-- Settles O39: the test passes at the first accepting base, and fails when all its rounds are used up. -/
theorem isprimeCompletesWithDraws : Obligations.IsprimeCompletesWithDraws := by
  refine fun s fails rest h2 hfixed hnone => ⟨fun a ha hlt henv => ?_, fun _ hlen henv => ?_⟩
  · exact endsWith_one_of_passes h2 henv (.inr ⟨fails, a, rfl, ⟨h2, hfixed, hnone, hlt⟩, ha⟩)
  · exact endsWith_zero_of_fails h2 henv ⟨h2, hfixed, hnone, by omega⟩

/-- Settles O40: some fixed base accepts a prime. -/
theorem primeIsNeverCalledComposite : Obligations.PrimeIsNeverCalledComposite := fun s hp =>
  (isprimeCompletesWithoutDraws s hp.two_le).1 (fixedBaseAccepts_of_prime hp)

/-- Settles O41: of a prime the verdict would be 1. -/
theorem falseVerdictMeansComposite : Obligations.FalseVerdictMeansComposite := by
  intro s t _ hexec _ hzero hp
  obtain ⟨t', hexec', -, -, -, -, hres, -⟩ := primeIsNeverCalledComposite s hp
  obtain rfl : t = t' := by simpa using hexec.symm.trans hexec'
  rw [hres] at hzero
  exact absurd hzero (show (1 : Word) ≠ 0 by decide)

/-- Two composites that a fixed base accepts (R196 (d)). -/
theorem fixedBaseAccepts_composites : fixedBaseAccepts 2047 = true ∧ fixedBaseAccepts 3215031751 = true := by
  decide +kernel

/-- Settles O42: both composites are accepted without a draw. -/
theorem trueVerdictIsNoProofOfPrimality : Obligations.TrueVerdictIsNoProofOfPrimality := by
  refine ⟨fun s hs => ?_, rfl, fun s hs => ?_, rfl, by decide⟩
  · exact (isprimeCompletesWithoutDraws s (by rw [hs]; decide)).1 (hs ▸ fixedBaseAccepts_composites.1)
  · exact (isprimeCompletesWithoutDraws s (by rw [hs]; decide)).1 (hs ▸ fixedBaseAccepts_composites.2)

end Sys2Proof.Machine
end

section
/-!
PROOF. The tests of `KEYGEN`'s candidates (R211 to R213, R217, R220): the answer to a window request is tested over the bases
drawn after it, and the verdict decides the next request or the rejection.
-/
namespace Sys2Proof.Machine

/-! ### An answer to a window request -/

/-- In `s` the answer `c` is a candidate of `KEYGEN`: it is stored, which leaves the orchestrator's registers at `k`, and
tested in the stage `g` (R211, R212, R220). -/
structure Candidate (par : Config.Params) (s : State) (c : Word) (g : Stage) (after : Verdict → State → State)
    (k : KgRegs) : Prop where
  waiting : ∃ req, s.port = some req
  takes : takeAnswer par c s = testCandidate par c after ((takeFromPort c s).withKg k)
  stage : TestStage par g after
  attempts : k.attempts = s.work.kg.attempts

theorem candidate_p (par : Config.Params) {s : State} {req : Request} (c : Word) (hm : s.mode = .busy .drawP)
    (hport : s.port = some req) :
    Candidate par s c .testPWait (afterTestP par) { s.work.kg with p := c } :=
  ⟨⟨req, hport⟩, by rw [takeAnswer, hm]; rfl, testStage_p par, rfl⟩

theorem candidate_q (par : Config.Params) {s : State} {req : Request} (c : Word) (hm : s.mode = .busy .drawQ)
    (hport : s.port = some req) :
    Candidate par s c .testQWait (afterTestQ par) { s.work.kg with q := c } :=
  ⟨⟨req, hport⟩, by rw [takeAnswer, hm]; rfl, testStage_q par, rfl⟩

/-- `y` is the block `s` after it has stored the candidate `c` and drawn these bases for its test. -/
def Tested (s : State) (k : KgRegs) (c : Word) (bs : List Word) (y : State) : Prop :=
  Drew c bs ((takeFromPort c s).withKg k) y

theorem TestPasses.two_le {rep c : Word} {bs : List Word} (h : TestPasses rep c bs) : 2 ≤ c.toNat := by
  rcases h with ⟨h2, -, -⟩ | ⟨_, _, -, ⟨h2, -⟩, -⟩
  · exact h2
  · exact h2

/-- A candidate that the source's contract allows is tested (R195). -/
theorem testCandidate_of_two_le (par : Config.Params) {c : Word} (h : 2 ≤ c.toNat) (after : Verdict → State → State)
    (x : State) :
    testCandidate par c after x =
      .next (after (mrBegin c par.kgRepeat x.work).1 (x.withWork (mrBegin c par.kgRepeat x.work).2)) := by
  obtain ⟨h0, h1⟩ := ne_zero_and_ne_one_of_two_le h
  rw [testCandidate, if_neg h0, if_neg h1]

section
variable {par : Config.Params} {s : State} {c : Word} {g : Stage} {after : Verdict → State → State} {k : KgRegs}
  {bs : List Word}

/-- A candidate's test over the bases that stand next ends where the test of `c` comes to. -/
theorem Candidate.drain_eq (h : Candidate par s c g after k) (h2 : 2 ≤ c.toNat) {rest : List EnvEvent} {v : Verdict}
    {y : State} (hy : ComesTo par after par.kgRepeat c ((takeFromPort c s).withKg k) bs rest v y) :
    drain par (answers (c :: bs) ++ rest) s = drain par rest (after v y) := by
  obtain ⟨req, hport⟩ := h.waiting
  refine (drain_answer par c (answers bs ++ rest) s req hport).trans ?_
  rw [h.takes, testCandidate_of_two_le par h2]
  exact hy.2

theorem Candidate.passes (h : Candidate par s c g after k) (ht : TestPasses par.kgRepeat c bs) (rest : List EnvEvent) :
    ∃ y, Tested s k c bs y ∧ drain par (answers (c :: bs) ++ rest) s = drain par rest (after .yes y) := by
  obtain ⟨y, hy⟩ := h.stage.passes ht ((takeFromPort c s).withKg k) rest
  exact ⟨y, hy.1, h.drain_eq ht.two_le hy⟩

theorem Candidate.fails (h : Candidate par s c g after k) (ht : TestFails par.kgRepeat c bs) (rest : List EnvEvent) :
    ∃ y, Tested s k c bs y ∧ drain par (answers (c :: bs) ++ rest) s = drain par rest (after .no y) := by
  obtain ⟨y, hy⟩ := h.stage.fails ht ((takeFromPort c s).withKg k) rest
  exact ⟨y, hy.1, h.drain_eq ht.1 hy⟩

theorem Candidate.undecided (h : Candidate par s c g after k) (ht : TestUndecided par.kgRepeat c bs)
    (rest : List EnvEvent) :
    ∃ y, Tested s k c bs y ∧ drain par (answers (c :: bs) ++ rest) s = drain par rest (presentBase g y) := by
  obtain ⟨y, hy, -⟩ := h.stage.undecided ht ((takeFromPort c s).withKg k) rest
  exact ⟨y, hy.1, h.stage.draws ▸ h.drain_eq ht.1 hy⟩

/-! ### What follows from a test -/

variable {y : State}

/-- A test works on no register of the orchestrator. -/
theorem Tested.kg (h : Tested s k c bs y) : y.work.kg = k := by
  obtain ⟨_, _, _, -, hkg, rfl⟩ := h
  exact hkg

theorem Tested.p (h : Tested s k c bs y) : y.work.kg.p = k.p := by rw [h.kg]

/-- After the test the block can be left waiting with any request, the orchestrator's registers written as they may be: a
host sees nothing of either (R26, R220). -/
theorem Tested.waits (h : Tested s k c bs y) (lo hi : Word) (g : Stage) (k' : KgRegs) :
    KeygenWaits g ⟨lo, hi⟩ k'.attempts (tracedDraws ⟨2, c - 1⟩ bs (.answered c :: s.trace)) s
      (present lo hi g (y.withKg k')) := by
  obtain ⟨_, _, _, -, -, rfl⟩ := h
  exact ⟨rfl, rfl, rfl, rfl, rfl, rfl, rfl, rfl, rfl, rfl, rfl⟩

/-- A test without a verdict waits for the next base (R195). -/
theorem Tested.waits_for_base (h : Tested s k c bs y) (hk : k.attempts = s.work.kg.attempts) (g : Stage) :
    KeygenWaits g ⟨2, c - 1⟩ s.work.kg.attempts (tracedDraws ⟨2, c - 1⟩ bs (.answered c :: s.trace)) s
      (presentBase g y) := by
  have hn : y.work.mr.n = c := by
    obtain ⟨_, _, _, hn, -, rfl⟩ := h
    exact hn
  rw [presentBase, hn, ← hk, ← h.kg]
  exact h.waits 2 (c - 1) g y.work.kg

/-- After the test a rejection counts one more, and ends the command at the bound or leads to the retry (R217). -/
theorem Tested.rejected (h : Tested s k c bs y) (hk : k.attempts = s.work.kg.attempts) (lo hi : Word) (g : Stage) :
    Rejected par g ⟨lo, hi⟩ (tracedDraws ⟨2, c - 1⟩ bs (.answered c :: s.trace)) s (reject par (present lo hi g) y) := by
  have hcount : y.work.kg.attempts + 1 = s.work.kg.attempts + 1 := by rw [h.kg, hk]
  rw [Rejected, reject, hcount]
  split_ifs with hlimit
  · obtain ⟨_, _, _, -, -, rfl⟩ := h
    exact ⟨rfl, rfl, rfl, rfl, rfl, rfl, rfl, rfl, rfl, rfl, rfl⟩
  · exact h.waits lo hi g { y.work.kg with attempts := s.work.kg.attempts + 1 }

end

/-- A retry keeps the `p` that stands in the registers (R217). -/
theorem reject_present_keeps_p (par : Config.Params) (lo hi : Word) (g : Stage) (s : State)
    (h : (reject par (present lo hi g) s).busyBit = true) :
    (reject par (present lo hi g) s).work.kg.p = s.work.kg.p := by
  rcases reject_cases par (present lo hi g) s with heq | heq
  · rw [heq] at h
    cases h
  · rw [heq]
    rfl

/-! ### The tests of `p` and of `q` -/

section
variable {par : Config.Params} {s : State} {c : Word} {bs : List Word} {y : State}

/-- The products of R213 are made of the `p` that was kept and the candidate for `q`. -/
theorem Tested.productStep (h : Tested s { s.work.kg with q := c } c bs y) :
    KeygenWaits .drawE ⟨2, (s.work.kg.p - 1) * (c - 1)⟩ s.work.kg.attempts
        (tracedDraws ⟨2, c - 1⟩ bs (.answered c :: s.trace)) s (productStep y) ∧
      (productStep y).work.kg = { s.work.kg with
        q := c
        n := s.work.kg.p * c
        phi := (s.work.kg.p - 1) * (c - 1) } := by
  unfold Machine.productStep
  rw [h.kg]
  exact ⟨h.waits 2 _ .drawE _, rfl⟩

/-- A `q` whose test has passed is taken unless it is `p` (R212). -/
theorem Tested.afterTestQ_yes (par : Config.Params) (h : Tested s { s.work.kg with q := c } c bs y) :
    afterTestQ par .yes y = if c = s.work.kg.p then reject par drawQ y else Machine.productStep y := by
  rw [afterTestQ, h.kg]

/-- A rejected `q` is one rejection, and the retry keeps `p` (R212, R217). -/
theorem Tested.rejected_q (par : Config.Params) (h : Tested s { s.work.kg with q := c } c bs y) :
    Rejected par .drawQ windowRequest (tracedDraws ⟨2, c - 1⟩ bs (.answered c :: s.trace)) s (reject par drawQ y) ∧
      ((reject par drawQ y).busyBit = true → (reject par drawQ y).work.kg.p = s.work.kg.p) := by
  exact ⟨h.rejected rfl _ _ _, fun hbusy => (reject_present_keeps_p par _ _ _ y hbusy).trans h.p⟩

end

/-- Settles O46: the first request is made from acceptance; in either waiting state the answer is a candidate, and each outcome
of its test leads on as R211, R212 and R217 say. -/
theorem keygenTestsItsCandidates : Obligations.KeygenTestsItsCandidates := by
  refine fun par => ⟨fun s => ⟨keygenBegin s, rfl, rfl, rfl, rfl, rfl, rfl, rfl, rfl, rfl, rfl, rfl, rfl⟩,
    fun s req c bs rest hm hport => ?_, fun s req c bs rest hm hport => ?_⟩
  · have hc := candidate_p par c hm hport
    refine ⟨fun ht => ?_, fun ht => ?_, fun ht => ?_⟩
    · obtain ⟨y, hy, hdrain⟩ := hc.passes ht rest
      refine ⟨_, hdrain, ?_, hy.p⟩
      rw [← hc.attempts, ← hy.kg]
      exact hy.waits Config.winLo Config.winHi .drawQ y.work.kg
    · obtain ⟨y, hy, hdrain⟩ := hc.fails ht rest
      exact ⟨_, hdrain, hy.rejected rfl Config.winLo Config.winHi .drawP⟩
    · obtain ⟨y, hy, hdrain⟩ := hc.undecided ht rest
      exact ⟨_, hdrain, hy.waits_for_base rfl _⟩
  · have hc := candidate_q par c hm hport
    refine ⟨fun ht hne => ?_, fun ht => ?_, fun ht => ?_⟩
    · obtain ⟨y, hy, hdrain⟩ := hc.passes ht rest
      rw [hy.afterTestQ_yes, if_neg hne] at hdrain
      obtain ⟨hwaits, hkg⟩ := hy.productStep
      refine ⟨_, hdrain, hwaits, ?_⟩
      rw [hkg]
      exact ⟨rfl, rfl, rfl, rfl⟩
    · have hreject : ∃ y, Tested s { s.work.kg with q := c } c bs y ∧
          drain par (answers (c :: bs) ++ rest) s = drain par rest (reject par drawQ y) := by
        rcases ht with ⟨ht, heq⟩ | ht
        · obtain ⟨y, hy, hdrain⟩ := hc.passes ht rest
          rw [hy.afterTestQ_yes, if_pos heq] at hdrain
          exact ⟨y, hy, hdrain⟩
        · exact hc.fails ht rest
      obtain ⟨y, hy, hdrain⟩ := hreject
      exact ⟨_, hdrain, hy.rejected_q par⟩
    · obtain ⟨y, hy, hdrain⟩ := hc.undecided ht rest
      exact ⟨_, hdrain, hy.waits_for_base rfl _, hy.p⟩

end Sys2Proof.Machine
end

section
/-!
PROOF. The exponent of `KEYGEN` and its ends (R210, R214 to R221): what follows from the draw of `e`, the run of a `KEYGEN` that
completes, the run that uses up its rejections, and what holds without a limit and for a source that keeps its contract.
-/
namespace Sys2Proof.Machine

/-! ### The draw of the exponent -/

/-- Of a number coprime to a modulus of at least 2, `ModInv` gives the inverse (R175). -/
theorem mul_modInv_mod {e phi : Word} (h2 : 2 ≤ phi.toNat) (hgcd : Nat.gcd phi.toNat e.toNat = 1) :
    e.toNat * (modInv e phi).toNat % phi.toNat = 1 := by
  have hinv := modInv_mul_modEq e (ne_zero_and_ne_one_of_two_le h2).1
  rw [Nat.gcd_comm, hgcd, mul_comm] at hinv
  exact Eq.trans hinv (Nat.mod_eq_of_lt h2)

theorem gcdOf_eq_one_iff (a b : Word) : gcdOf a b = 1 ↔ Nat.gcd a.toNat b.toNat = 1 := by
  rw [← gcdOf_toNat, BitVec.toNat_eq]
  exact Iff.rfl

theorem takeAnswer_drawE (par : Config.Params) {s : State} (hm : s.mode = .busy .drawE) (e : Word) :
    takeAnswer par e s = eAnswer par e (takeFromPort e s) := by
  rw [takeAnswer, hm]

/-- `K_GCD` rejects an exponent that is not coprime to the totient (R214). -/
theorem eAnswer_of_gcd_ne_one (par : Config.Params) {s : State} {e : Word}
    (h : Nat.gcd s.work.kg.phi.toNat e.toNat ≠ 1) :
    ∃ w, w.kg = { s.work.kg with e := e } ∧ eAnswer par e s = .next (reject par drawE (s.withWork w)) :=
  ⟨_, rfl, if_neg (mt (gcdOf_eq_one_iff _ _).1 h)⟩

/-- An exponent that is coprime to the totient comes to `K_VERIFY` with its inverse (R214, R215). -/
theorem eAnswer_of_gcd_eq_one (par : Config.Params) {s : State} {e : Word}
    (h : Nat.gcd s.work.kg.phi.toNat e.toNat = 1) :
    ∃ w, w.kg = { s.work.kg with e := e, d := modInv e s.work.kg.phi } ∧
      eAnswer par e s = verifyStep par (s.withWork w) :=
  ⟨_, rfl, if_pos ((gcdOf_eq_one_iff _ _).2 h)⟩

/-- `K_VERIFY` lets an inverse through, and `KEYGEN` ends with its tuple (R216, R218). -/
theorem verifyStep_of_inverse (par : Config.Params) {s : State} (h0 : s.work.kg.phi ≠ 0)
    (h : s.work.kg.e.toNat * s.work.kg.d.toNat % s.work.kg.phi.toNat = 1) :
    verifyStep par s =
      .next (endSuccess ⟨s.work.kg.p, s.work.kg.q, s.work.kg.e, s.work.kg.d, s.work.kg.n⟩ 0b11111 s) := by
  have hprod : prodMod s.work.kg.e s.work.kg.d s.work.kg.phi = 1 :=
    BitVec.eq_of_toNat_eq ((prodMod_toNat _ _ h0).trans h)
  rw [verifyStep, if_neg h0, if_pos hprod]

/-- Modulo 1 no product is 1, so `K_VERIFY` fails (R216). -/
theorem verifyStep_of_phi_eq_one (par : Config.Params) {s : State} (h : s.work.kg.phi = 1) :
    ∃ w, verifyStep par s = .next (reject par drawP (s.withWork w)) ∧ w.kg = s.work.kg := by
  have h0 : s.work.kg.phi ≠ 0 := by rw [h]; decide
  have hprod : prodMod s.work.kg.e s.work.kg.d s.work.kg.phi = 0 :=
    BitVec.eq_of_toNat_eq ((prodMod_toNat _ _ h0).trans (h ▸ Nat.mod_one _))
  exact ⟨_, (if_neg h0).trans (if_neg (by rw [hprod]; decide)), rfl⟩

/-- An answer that the sequencer has worked on and rejects is one rejection, of whichever loop (R217). -/
theorem rejected_of_answer (par : Config.Params) {s : State} {v : Word} {w : Work} {retry : State → State} {lo hi : Word}
    {g : Stage} (hk : w.kg.attempts = s.work.kg.attempts)
    (hretry : ∀ y : State, y.work.kg.phi = w.kg.phi → retry y = present lo hi g y) :
    Rejected par g ⟨lo, hi⟩ (.answered v :: s.trace) s (reject par retry ((takeFromPort v s).withWork w)) := by
  rw [Rejected, reject, withWork_work, hk]
  split_ifs with hlimit
  · exact ⟨rfl, rfl, rfl, rfl, rfl, rfl, rfl, rfl, rfl, rfl, rfl⟩
  · rw [hretry _ rfl]
    exact ⟨rfl, rfl, rfl, rfl, rfl, rfl, rfl, rfl, rfl, rfl, rfl⟩

/-- A rejection that leads to another draw of `e` counts one more attempt and changes no other register of the
orchestrator (R214, R217). -/
theorem reject_drawE_kg (par : Config.Params) (s : State) (h : (reject par drawE s).busyBit = true) :
    (reject par drawE s).work.kg = { s.work.kg with attempts := s.work.kg.attempts + 1 } := by
  rcases reject_cases par drawE s with heq | heq
  · rw [heq] at h
    cases h
  · rw [heq]
    rfl

section
variable {par : Config.Params} {s : State} {req : Request} (hm : s.mode = .busy .drawE) (hport : s.port = some req)
include hm hport

/-- The answer that stands next is the exponent (R214). -/
theorem drain_drawE (e : Word) (rest : List EnvEvent) :
    drain par (.answer e :: rest) s = goOn (eAnswer par e (takeFromPort e s)) (drain par rest) := by
  rw [drain_answer par e rest s req hport, takeAnswer_drawE par hm]

/-- An exponent with gcd 1 ends `KEYGEN` in success (R214 to R216, R218). -/
theorem drain_drawE_endsWith {e : Word} (rest : List EnvEvent) (hgcd : Nat.gcd s.work.kg.phi.toNat e.toNat = 1)
    (h2 : 2 ≤ s.work.kg.phi.toNat) :
    EndsWith ⟨s.work.kg.p, s.work.kg.q, e, modInv e s.work.kg.phi, s.work.kg.n⟩ 0b11111
      { s with env := rest, trace := .answered e :: s.trace } (drain par (.answer e :: rest) s) := by
  obtain ⟨w, hkg, heq⟩ := eAnswer_of_gcd_eq_one par (s := takeFromPort e s) hgcd
  have hinverse : w.kg.e.toNat * w.kg.d.toNat % w.kg.phi.toNat = 1 := hkg ▸ mul_modInv_mod h2 hgcd
  have hphi : w.kg.phi ≠ 0 := hkg ▸ (ne_zero_and_ne_one_of_two_le h2).1
  rw [drain_drawE hm hport, heq, verifyStep_of_inverse par (s := (takeFromPort e s).withWork w) hphi hinverse, goOn,
    drain_of_port_none _ _ _ rfl, withWork_work, hkg]
  exact endsWith_endSuccess _ _ _

end

/-- Settles O47: the gcd decides between the rejection and `K_VERIFY`, which the inverse passes unless the totient is 1. -/
theorem keygenDrawsTheExponent : Obligations.KeygenDrawsTheExponent := by
  refine fun par s req e rest hm hport => ⟨fun hgcd => ?_, fun hgcd h2 => ?_, fun hphi => ?_⟩
  · obtain ⟨w, hkg, heq⟩ := eAnswer_of_gcd_ne_one par (s := takeFromPort e s) hgcd
    refine ⟨_, by rw [drain_drawE hm hport, heq, goOn], ?_, fun hbusy => ?_⟩
    · exact rejected_of_answer par (by rw [hkg]; rfl)
        fun y hy => congrArg (present 2 · .drawE y) (hy.trans (by rw [hkg]; rfl))
    · rw [reject_drawE_kg par _ hbusy, withWork_work, hkg]
      exact ⟨rfl, rfl, rfl, rfl⟩
  · exact ⟨_, modInv_lt e (ne_zero_and_ne_one_of_two_le h2).1, mul_modInv_mod h2 hgcd,
      drain_drawE_endsWith hm hport rest hgcd h2⟩
  · have hgcd : Nat.gcd s.work.kg.phi.toNat e.toNat = 1 := by
      rw [hphi]
      exact Nat.gcd_one_left _
    obtain ⟨w, hkg, heq⟩ := eAnswer_of_gcd_eq_one par (s := takeFromPort e s) hgcd
    obtain ⟨w', heq', hkg'⟩ := verifyStep_of_phi_eq_one par (s := (takeFromPort e s).withWork w)
      ((congrArg KgRegs.phi hkg).trans hphi)
    refine ⟨_, by rw [drain_drawE hm hport, heq, heq', goOn], ?_⟩
    exact rejected_of_answer par (by rw [hkg', withWork_work, hkg]; rfl) fun _ _ => rfl

/-! ### A `KEYGEN` that completes -/

/-- A value of the window that a fixed base accepts passes its test without a draw (R194, R195). -/
theorem testPasses_of_inWindow {c : Word} (rep : Word) (hc : inWindow c = true) (hfixed : fixedBaseAccepts c = true) :
    TestPasses rep c [] :=
  .inl ⟨le_trans (by norm_num) (four_le_of_inWindow hc), hfixed, rfl⟩

/-- Waiting twice is waiting, as far as a host can see. -/
theorem KeygenWaits.trans {g g' : Stage} {req req' : Request} {n n' : Nat} {tr tr' : List Obs} {s t u : State}
    (h : KeygenWaits g req n tr s t) (h' : KeygenWaits g' req' n' tr' t u) : KeygenWaits g' req' n' tr' s u := by
  obtain ⟨-, -, -, -, hres, hrv, hdone, hfail, herr, hcmd, hop⟩ := h
  rwa [KeygenWaits, ← hres, ← hrv, ← hdone, ← hfail, ← herr, ← hcmd, ← hop]

/-- A success end is told of `CMD`, the operands and the two lists of the block it began from, and of nothing else. -/
theorem EndsWith.of_same_frame {res : ResRegs} {rv : BitVec 5} {s s' : State} {r : Result} (h : EndsWith res rv s r)
    (hcmd : s.cmd = s'.cmd) (hop : s.op = s'.op) (henv : s.env = s'.env) (htrace : s.trace = s'.trace) :
    EndsWith res rv s' r := by
  rwa [EndsWith, ← hcmd, ← hop, ← henv, ← htrace]

/-- With two different candidates of the window that pass at once, `KEYGEN` comes to the draw of `e` (R211 to R213). -/
theorem keygenWith_comes_to_drawE (par : Config.Params) {s : State} {p q : Word} {l : List EnvEvent}
    (hp : TestPasses par.kgRepeat p []) (hq : TestPasses par.kgRepeat q []) (hne : p ≠ q)
    (henv : s.env = answers [p, q] ++ l) :
    ∃ t, keygenWith par s = drain par l t ∧
      KeygenWaits .drawE ⟨2, (p - 1) * (q - 1)⟩ 0
        ([.answered q, .request Config.winLo Config.winHi, .answered p, .request Config.winLo Config.winHi] ++ s.trace)
        s t ∧
      t.work.kg.p = p ∧ t.work.kg.q = q ∧ t.work.kg.n = p * q ∧ t.work.kg.phi = (p - 1) * (q - 1) := by
  obtain ⟨hbegin, hdrawP, hdrawQ⟩ := keygenTestsItsCandidates par
  obtain ⟨a, hrunA, hwaitsA⟩ := hbegin s
  have ⟨hmA, hportA, hattemptsA, htraceA, _⟩ := hwaitsA
  obtain ⟨b, hrunB, hwaitsB, hpB⟩ := (hdrawP a _ p [] (answers [q] ++ l) hmA hportA).1 hp
  have ⟨hmB, hportB, hattemptsB, htraceB, _⟩ := hwaitsB
  obtain ⟨c, hrunC, hwaitsC, hpC, hqC, hnC, hphiC⟩ := (hdrawQ b _ q [] l hmB hportB).1 hq (hpB ▸ hne.symm)
  rw [hattemptsB, hattemptsA, htraceB, htraceA, hpB] at hwaitsC
  rw [hpB] at hpC hnC hphiC
  refine ⟨c, ?_, hwaitsA.trans (hwaitsB.trans hwaitsC), hpC, hqC, hnC, hphiC⟩
  rw [hrunA, henv]
  exact hrunB.trans hrunC

/-- Settles O43: two candidates that pass at once, and an exponent with gcd 1. -/
theorem keygenCompletes : Obligations.KeygenCompletes := by
  intro s p q e rest hp hq hne hpfix hqfix _ _ hgcd henv
  obtain ⟨t, hrun, ⟨hm, hport, -, htrace, -, -, -, -, -, hcmd, hop⟩, htp, htq, htn, htphi⟩ :=
    keygenWith_comes_to_drawE Config.params (l := .answer e :: rest) (testPasses_of_inWindow _ hp hpfix)
      (testPasses_of_inWindow _ hq hqfix) hne henv
  have hready : ProductsReady ⟨p, q, p * q, (p - 1) * (q - 1), 0, 0, 0⟩ := ⟨hp, hq, hne, rfl, rfl⟩
  have h2 := hready.two_lt_phi.le
  have hcoprime : Nat.gcd ((p - 1) * (q - 1)).toNat e.toNat = 1 := hready.phi_toNat ▸ hgcd
  have hends := drain_drawE_endsWith (par := Config.params) hm hport rest (htphi ▸ hcoprime) (htphi ▸ h2)
  rw [← hrun, htp, htq, htn, htphi] at hends
  exact ⟨_, _, _, hready.n_toNat, hready.phi_toNat, modInv_lt e (ne_zero_and_ne_one_of_two_le h2).1,
    mul_modInv_mod h2 hcoprime, hends.of_same_frame hcmd hop rfl (congrArg (.answered e :: ·) htrace)⟩

/-! ### A `KEYGEN` that uses up its rejections -/

/-- From `s`, `t` has ended in the recoverable class with `ERR_RETRY_EXHAUSTED`, its trace being `tr` (R256, R260). -/
def Exhausted (tr : List Obs) (s t : State) : Prop :=
  t.mode = .idle ∧ t.done = true ∧ t.fail = true ∧ t.err = .retryExhausted ∧ t.res = s.res ∧ t.rvalid = s.rvalid ∧
    t.cmd = s.cmd ∧ t.op = s.op ∧ t.work = Work.zero ∧ t.port = none ∧ t.trace = tr

section
variable {par : Config.Params} {g : Stage} {req : Request} {tr tr' : List Obs} {s t u : State}

/-- The rejection at the bound ends the command (R217). -/
theorem Rejected.exhausted (h : Rejected par g req tr s t) (hlimit : par.retryLimit ≠ 0)
    (hle : par.retryLimit.toNat ≤ s.work.kg.attempts + 1) : Exhausted tr s t := by
  rwa [Rejected, if_pos ⟨hlimit, hle⟩] at h

/-- A rejection below the bound leads to the retry (R217). -/
theorem Rejected.waits (h : Rejected par g req tr s t) (hlt : s.work.kg.attempts + 1 < par.retryLimit.toNat) :
    KeygenWaits g req (s.work.kg.attempts + 1) tr s t := by
  rwa [Rejected, if_neg fun hbound => absurd hbound.2 (Nat.not_le.2 hlt)] at h

/-- Waiting changes nothing that the end tells of. -/
theorem Exhausted.of_waits {n : Nat} (h : Exhausted tr t u) (hs : KeygenWaits g req n tr' s t) : Exhausted tr s u := by
  obtain ⟨-, -, -, -, hres, hrv, -, -, -, hcmd, hop⟩ := hs
  rwa [Exhausted, ← hres, ← hrv, ← hcmd, ← hop]

/-- With a repeat count of at most 7 a candidate for `p` that no fixed base accepts is one rejection (R195, R211). -/
theorem drain_rejected_p (hrep : par.kgRepeat.toNat ≤ 7) {c : Word} (hc : 2 ≤ c.toNat ∧ fixedBaseAccepts c = false)
    (rest : List EnvEvent) (hm : s.mode = .busy .drawP) (hport : s.port = some windowRequest)
    (htr : s.trace = .request windowRequest.lo windowRequest.hi :: tr) :
    ∃ t, drain par (.answer c :: rest) s = drain par rest t ∧
      Rejected par .drawP windowRequest (tracedDraws windowRequest [c] tr) s t := by
  have hfails : TestFails par.kgRepeat c [] := ⟨hc.1, hc.2, nofun, (Nat.sub_eq_zero_of_le hrep).symm⟩
  obtain ⟨t, hrun, hrej⟩ := ((keygenTestsItsCandidates par).2.1 s _ c [] rest hm hport).2.1 hfails
  rw [htr] at hrej
  exact ⟨t, hrun, hrej⟩

/-- As many candidates for `p` that the test rejects as there are rejections left end `KEYGEN` (R211, R217). -/
theorem drain_rejected_candidates (hlimit : par.retryLimit ≠ 0) (hrep : par.kgRepeat.toNat ≤ 7) (rest : List EnvEvent)
    (c : Word) (cs : List Word) (hcs : ∀ v ∈ c :: cs, 2 ≤ v.toNat ∧ fixedBaseAccepts v = false)
    (hm : s.mode = .busy .drawP) (hport : s.port = some windowRequest)
    (hcount : s.work.kg.attempts + 1 + cs.length = par.retryLimit.toNat)
    (htr : s.trace = .request windowRequest.lo windowRequest.hi :: tr) :
    ∃ t, drain par (answers (c :: cs) ++ rest) s = drain par rest t ∧
      Exhausted (tracedDraws windowRequest (c :: cs) tr) s t := by
  induction cs generalizing s c tr with
  | nil =>
    obtain ⟨t, hrun, hrej⟩ := drain_rejected_p hrep (hcs c List.mem_cons_self) rest hm hport htr
    exact ⟨t, hrun, hrej.exhausted hlimit hcount.ge⟩
  | cons c' cs ih =>
    obtain ⟨x, hrun, hrej⟩ :=
      drain_rejected_p hrep (hcs c List.mem_cons_self) (answers (c' :: cs) ++ rest) hm hport htr
    rw [List.length_cons] at hcount
    have hwaits := hrej.waits (by omega)
    have ⟨hm', hport', hattempts, htr', _⟩ := hwaits
    obtain ⟨t, hrun', hend⟩ := ih c' (fun v hv => hcs v (List.mem_cons_of_mem c hv)) hm' hport' (by omega) htr'
    exact ⟨t, hrun.trans hrun', hend.of_waits hwaits⟩

end

/-- Settles O45: `KEYGEN` begins with no rejection counted, and has ended when the bound is counted. -/
theorem retryLimitEndsKeygen : Obligations.RetryLimitEndsKeygen := by
  intro par s cs rest hlimit hrep hlen hcs henv
  cases cs with
  | nil => exact absurd (BitVec.eq_of_toNat_eq hlen.symm) hlimit
  | cons c cs =>
    obtain ⟨x, hrun, hwaits⟩ := (keygenTestsItsCandidates par).1 s
    have ⟨hm, hport, hattempts, htr, _⟩ := hwaits
    rw [List.length_cons] at hlen
    obtain ⟨t, hdrain, hend⟩ := drain_rejected_candidates hlimit hrep rest c cs hcs hm hport (by omega) htr
    obtain ⟨hmode, hdone, hfail, herr, hres, hrv, hcmd, hop, hwork, hport', htrace⟩ := hend.of_waits hwaits
    refine ⟨{ t with env := rest }, ?_, hmode, hdone, hfail, herr, hres, hrv, hcmd, hop, hwork, hport', rfl, htrace⟩
    rw [hrun, henv, hdrain, drain_of_port_none _ _ _ hport']

/-! ### Without a limit -/

/-- Where the result has a next state, that state has no error. -/
def NoErrorAfter (r : Result) : Prop := ∀ t, r = .next t → t.err = .noError

theorem noErrorAfter_next {t : State} (h : t.err = .noError) : NoErrorAfter (.next t) := by
  rintro _ ⟨⟩
  exact h

theorem noErrorAfter_ite {p : Prop} [Decidable p] {a b : Result} (ha : NoErrorAfter a) (hb : NoErrorAfter b) :
    NoErrorAfter (if p then a else b) := by
  split
  · exact ha
  · exact hb

theorem isprimeFrom_noError {s : State} (v : Verdict) (h : s.err = .noError) : (isprimeFrom v s).err = .noError := by
  cases v with
  | yes => rfl
  | no => rfl
  | draw => exact h

theorem testCandidate_noError (par : Config.Params) (c : Word) {after : Verdict → State → State} {s : State}
    (hafter : ∀ v s, (after v s).err = s.err) (h : s.err = .noError) : NoErrorAfter (testCandidate par c after s) :=
  noErrorAfter_ite (noErrorAfter_next h)
    (noErrorAfter_ite (noErrorAfter_next h) (noErrorAfter_next ((hafter _ _).trans h)))

section
variable {par : Config.Params} (hlimit : par.retryLimit = 0)
include hlimit

/-- Without a limit a rejection leads to the retry (R217). -/
theorem reject_of_no_limit (retry : State → State) (s : State) :
    reject par retry s = retry (s.withKg { s.work.kg with attempts := s.work.kg.attempts + 1 }) :=
  if_neg fun hbound => hbound.1 hlimit

theorem afterTestP_err (v : Verdict) (s : State) : (afterTestP par v s).err = s.err := by
  cases v with
  | yes => rfl
  | no =>
    rw [afterTestP, reject_of_no_limit hlimit]
    rfl
  | draw => rfl

theorem afterTestQ_err (v : Verdict) (s : State) : (afterTestQ par v s).err = s.err := by
  cases v with
  | yes =>
    rw [afterTestQ, reject_of_no_limit hlimit]
    split
    all_goals rfl
  | no =>
    rw [afterTestQ, reject_of_no_limit hlimit]
    rfl
  | draw => rfl

theorem verifyStep_noError {s : State} (h : s.err = .noError) : NoErrorAfter (verifyStep par s) := by
  refine noErrorAfter_ite (noErrorAfter_next h) (noErrorAfter_ite (noErrorAfter_next rfl) (noErrorAfter_next ?_))
  rw [reject_of_no_limit hlimit]
  exact h

theorem eAnswer_noError (e : Word) {s : State} (h : s.err = .noError) : NoErrorAfter (eAnswer par e s) := by
  refine noErrorAfter_ite (verifyStep_noError hlimit h) (noErrorAfter_next ?_)
  rw [reject_of_no_limit hlimit]
  exact h

theorem takeAnswer_noError (v : Word) {s : State} (h : s.err = .noError) : NoErrorAfter (takeAnswer par v s) := by
  unfold takeAnswer
  split
  case h_1 => exact noErrorAfter_next (isprimeFrom_noError _ h)
  case h_2 => exact testCandidate_noError par v (afterTestP_err hlimit) h
  case h_3 => exact noErrorAfter_next ((afterTestP_err hlimit _ _).trans h)
  case h_4 => exact testCandidate_noError par v (afterTestQ_err hlimit) h
  case h_5 => exact noErrorAfter_next ((afterTestQ_err hlimit _ _).trans h)
  case h_6 => exact eAnswer_noError hlimit v h
  all_goals exact noErrorAfter_next h

theorem drain_noError (l : List EnvEvent) {s : State} (h : s.err = .noError) : NoErrorAfter (drain par l s) := fun t =>
  drain_keeps par (fun x => x.err = .noError) (fun _ _ hx => hx) (fun _ v _ y hx _ => takeAnswer_noError hlimit v hx y)
    l s t h

end

/-- Settles O48: every rejection leads to its retry, so no answer raises an error. -/
theorem noLimitNeverExhausts : Obligations.NoLimitNeverExhausts := fun _ s hlimit herr =>
  ⟨drain_noError hlimit s.env (s := keygenBegin s) herr, fun v => takeAnswer_noError hlimit v herr,
    fun l => drain_noError hlimit l herr⟩

/-! ### For a source that keeps its contract -/

/-- Settles O49: the block goes on, and the invariant it keeps excludes the stage. -/
theorem contractKeepsKeygenRunning : Obligations.ContractKeepsKeygenRunning := by
  intro par s req v hs hk hport hlo hhi
  obtain ⟨t, htake⟩ := takeAnswer_goesOn par v s
  exact ⟨t, htake, (takeAnswer_keyInv hs hk hport (decide_eq_true fun _ => ⟨hlo, hhi⟩) htake).specified⟩

end Sys2Proof.Machine
end

section
/-!
PROOF. The transform (R230, R231, R233): the ends of `RSAXF`, and the RSA round trip over a product of two distinct primes by
Fermat's little theorem and the Chinese remainder theorem.
-/
namespace Sys2Proof.Machine

/-! ### `RSAXF` -/

/-- `RSAXF` on which a check fails ends fatal with the error of the check (R230). -/
theorem exec_rsaxf_of_error {s : State} {c : ErrCode} (h : rsaTransform s.op.o0 s.op.o1 s.op.o2 = .error c) :
    exec .rsaxf s = .next (endFatal c s) := by
  simp only [exec, execRsaxf, operand0_eq, operand1_eq, operand2_eq, h]
  rw [raiseError_of_fatalCode (fatalCode_of_rsaTransform h)]

/-- `RSAXF` without a modulus (R231): the modulus is checked before the data. -/
theorem exec_rsaxf_of_zero {s : State} (h : s.op.o2 = 0) : exec .rsaxf s = .next (endFatal .zeroModulus s) :=
  exec_rsaxf_of_error (if_pos h)

/-- `RSAXF` with data outside the residue ring (R230, R258). -/
theorem exec_rsaxf_of_le {s : State} (h : s.op.o2 ≠ 0) (hle : s.op.o2 ≤ s.op.o0) :
    exec .rsaxf s = .next (endFatal .dataRange s) :=
  exec_rsaxf_of_error ((if_neg h).trans (if_pos hle))

theorem word_ne_zero_of_lt {a n : Word} (h : a < n) : n ≠ 0 := by
  rintro rfl
  exact BitVec.not_lt_zero h

/-- `RSAXF` with data below the modulus (R231). -/
theorem exec_rsaxf_of_lt {s : State} (hlt : s.op.o0 < s.op.o2) :
    exec .rsaxf s = .next (endSuccess { s.res with r0 := powMod s.op.o0 s.op.o1 s.op.o2 } 0b00001 s) := by
  have hval : rsaTransform s.op.o0 s.op.o1 s.op.o2 = .ok (powMod s.op.o0 s.op.o1 s.op.o2) :=
    (if_neg (word_ne_zero_of_lt hlt)).trans (if_neg (BitVec.not_le.2 hlt))
  simp only [exec, execRsaxf, operand0_eq, operand1_eq, operand2_eq, hval]
  rfl

/-- Settles O50: the word is the command's encoding, and the two checks in their order decide between the two fatal ends and
the success end. -/
theorem transformCompletes : Obligations.TransformCompletes := by
  refine ⟨decode_encode .rsaxf, fun s => ?_⟩
  by_cases hzero : s.op.o2 = 0
  · rw [if_pos hzero, exec_rsaxf_of_zero hzero]
    exact haltsWith_endFatal _ _
  · rw [if_neg hzero]
    by_cases hle : s.op.o2 ≤ s.op.o0
    · rw [if_pos hle, exec_rsaxf_of_le hzero hle]
      exact haltsWith_endFatal _ _
    · rw [if_neg hle, exec_rsaxf_of_lt (BitVec.not_le.1 hle)]
      exact ⟨_, powMod_toNat _ _ hzero, endsWith_endSuccess _ _ _⟩

/-! ### The round trip -/

/-- Fermat's little theorem for an exponent congruent to 1, with `a = 0` modulo `p` among the cases. -/
theorem pow_modEq_self_of_prime {p m : Nat} (hp : p.Prime) (hm0 : m ≠ 0) (hm : m ≡ 1 [MOD p - 1]) (a : Nat) :
    a ^ m ≡ a [MOD p] := by
  have : Fact p.Prime := ⟨hp⟩
  rw [← ZMod.natCast_eq_natCast_iff, Nat.cast_pow]
  by_cases ha : (a : ZMod p) = 0
  · rw [ha, zero_pow hm0]
  · rw [pow_eq_pow_of_modEq hm (ZMod.pow_card_sub_one_eq_one ha), pow_one]

/-- Euler's theorem for a product of two distinct primes, for every `a`, coprime to it or not (R233 (b)). -/
theorem pow_modEq_self_of_prime_mul {p q m : Nat} (hp : p.Prime) (hq : q.Prime) (hpq : p ≠ q)
    (hm : m % ((p - 1) * (q - 1)) = 1) (a : Nat) : a ^ m ≡ a [MOD p * q] := by
  have hm0 : m ≠ 0 := by
    rintro rfl
    exact absurd hm (by simp)
  have hone : m ≡ 1 [MOD (p - 1) * (q - 1)] := (hm ▸ Nat.mod_modEq m _).symm
  exact (Nat.modEq_and_modEq_iff_modEq_mul ((Nat.coprime_primes hp hq).2 hpq)).1
    ⟨pow_modEq_self_of_prime hp hm0 hone.of_mul_right a, pow_modEq_self_of_prime hq hm0 hone.of_mul_left a⟩

/-- With a key other than 0 the power lies below the modulus. -/
theorem powMod_lt (base : Word) {e n : Word} (he : e ≠ 0) (hn : n ≠ 0) : powMod base e n < n := by
  rw [BitVec.lt_def, powMod_toNat base e hn, if_neg he]
  exact Nat.mod_lt _ (toNat_pos_of_ne_zero hn)

/-- The power of a power is the power for the product of the keys. -/
theorem powMod_powMod_toNat (base : Word) {e d n : Word} (he : e ≠ 0) (hd : d ≠ 0) (hn : n ≠ 0) :
    (powMod (powMod base e n) d n).toNat = base.toNat ^ (e.toNat * d.toNat) % n.toNat := by
  rw [powMod_toNat _ d hn, if_neg hd, powMod_toNat base e hn, if_neg he, ← Nat.pow_mod, ← pow_mul]

/-- Settles O51: the first result lies below the modulus, so the second transform completes too, and its value is `data` to a
power that is congruent to 1 modulo the totient. -/
theorem transformRoundTrip : Obligations.TransformRoundTrip := by
  intro s p q e d n data hp hq hpq hn hed hdata
  have hn0 : n ≠ 0 := word_ne_zero_of_lt hdata
  have he0 : e ≠ 0 := by
    rintro rfl
    exact absurd hed (by simp)
  have hd0 : d ≠ 0 := by
    rintro rfl
    exact absurd hed (by simp)
  have hback : powMod (powMod data e n) d n = data := by
    apply BitVec.eq_of_toNat_eq
    rw [powMod_powMod_toNat data he0 hd0 hn0, hn, pow_modEq_self_of_prime_mul hp hq hpq hed data.toNat, ← hn]
    exact Nat.mod_eq_of_lt hdata
  exact ⟨_, _, exec_rsaxf_of_lt hdata, exec_rsaxf_of_lt (powMod_lt data he0 hn0), rfl, rfl, hback⟩

end Sys2Proof.Machine
end

section
/-!
PROOF. How a command starts and ends at the host's side (R240 to R242): the run of an accepted word, acceptance, `CLR`, and
the `STATUS` values a host reads after each of these events.
-/
namespace Sys2Proof.Machine

/-! ### Acceptance and the run of the accepted word -/

/-- The sequencer runs an accepted word that decodes as its command (R241). -/
theorem sequencer_runs {s : State} {i : Instr} (hm : s.mode = .busy .accepted) (h : decode s.cmd = .ok i) :
    sequencer s = exec i s :=
  (sequencer_of_accepted s hm).trans (runCommand_of_ok h)

/-- With no event left, an accepted word that decodes runs in this step (R241). -/
theorem step_of_accepted {s : State} {i : Instr} (hm : s.mode = .busy .accepted) (h : decode s.cmd = .ok i)
    (henv : s.env = []) : step s = exec i s :=
  (step_of_no_event henv).trans (sequencer_runs hm h)

/-- Settles O4: on both ways the sequencer comes to run, it runs the command. -/
theorem stepRunsTheAcceptedCommand : Obligations.StepRunsTheAcceptedCommand := by
  refine fun i s hm hdecode => ⟨step_of_accepted hm hdecode, fun rest henv => ?_⟩
  exact (step_run henv).trans (sequencer_runs (s := { s with env := rest }) hm hdecode)

/-- A write to `CMD` in `IDLE` is an acceptance (R65, R241). -/
theorem step_write_cmd {s : State} {w : Word} {rest : List EnvEvent} (hm : s.mode = .idle)
    (henv : s.env = .write 0 w :: rest) : step s = .next { accept w s with env := rest } := by
  have hspec : s.mode ≠ .busy .unspecified := by simp [hm]
  obtain ⟨hcmd, -⟩ := (hostWritesByMode s 0 w rest hspec henv).2 hm
  exact hcmd rfl

/-- Settles O6: the write is an acceptance, which says what each field becomes. -/
theorem writeToCmdIsAccepted : Obligations.WriteToCmdIsAccepted := fun _ _ _ hm henv =>
  ⟨_, step_write_cmd hm henv, rfl, rfl, rfl, rfl, rfl, rfl, rfl, rfl, rfl, rfl, rfl, rfl⟩

/-! ### `CLR` -/

/-- `CLR` (R240). -/
theorem exec_clr (s : State) : exec .clr s = .next (endSuccess ⟨0, 0, 0, 0, 0⟩ 0b00000 { s with op := ⟨0, 0, 0⟩ }) := rfl

/-- Settles O52: `CLR` is a success end from the cleared operands. -/
theorem clrClearsOperandsAndResults : Obligations.ClrClearsOperandsAndResults := by
  intro s
  rw [exec_clr]
  exact endsWith_endSuccess _ _ _

/-! ### `STATUS` -/

theorem endSuccess_status_toNat (res : ResRegs) (rv : BitVec 5) (s : State) :
    (endSuccess res rv s).status.toNat = 2 + 256 * rv.toNat := by
  rw [statusLayout]
  simp [State.busyBit, State.haltBit, ErrCode.code]

section
variable {s : State} (c : ErrCode) (h : s.rvalid = 0)
include h

theorem endFatal_status_toNat : (endFatal c s).status.toNat = 6 + 16 * c.code.toNat := by
  rw [statusLayout]
  simp [State.busyBit, State.haltBit, h]

theorem endRecoverable_status_toNat : (endRecoverable c s).status.toNat = 10 + 16 * c.code.toNat := by
  rw [statusLayout]
  simp [State.busyBit, State.haltBit, h]

end

theorem accept_status_toNat (w : Word) (s : State) : (accept w s).status.toNat = 1 := by
  rw [statusLayout]
  simp [State.busyBit, State.haltBit, ErrCode.code]

/-- Settles O10: the layout of `STATUS` gives each value as a sum of its fields. -/
theorem statusAfterEachEnd : Obligations.StatusAfterEachEnd := by
  obtain ⟨-, -, hreset, -⟩ := resetValues
  refine ⟨endSuccess_status_toNat, fun s h => ?_, fun w s => BitVec.eq_of_toNat_eq (accept_status_toNat w s), hreset⟩
  refine ⟨BitVec.eq_of_toNat_eq (endRecoverable_status_toNat _ h), ?_, ?_, ?_, ?_⟩
  all_goals exact BitVec.eq_of_toNat_eq (endFatal_status_toNat _ h)

end Sys2Proof.Machine
end

section
/-!
PROOF. Fatal errors (R252 to R254, R259, R261, R262): which operands halt the block, that a halt is the fatal end and nothing
else, and that only reset leads out of it. The answers of the random source neither halt the block nor wake it.
-/
namespace Sys2Proof.Machine

/-! ### Answers and `HALT` -/

theorem IsprimeStep.mode_ne_halt {s t : State} {w : Work} (h : IsprimeStep s w t) : t.mode ≠ .halt := by
  rcases h with rfl | rfl | rfl
  all_goals exact nofun

theorem KeygenStep.mode_ne_halt {s t : State} {w : Work} (h : KeygenStep s w t) : t.mode ≠ .halt := by
  rcases h with rfl | rfl | rfl | rfl | rfl | rfl | rfl | rfl | rfl
  all_goals exact nofun

/-- Taking an answer leads neither into `HALT` nor out of it. -/
theorem takeAnswer_halt_iff {par : Config.Params} {v : Word} {s t : State} (h : takeAnswer par v s = .next t) :
    t.mode = .halt ↔ s.mode = .halt := by
  rcases takeAnswer_cases par v s t h with ⟨hm, w, hstep⟩ | ⟨g, hm, -, w, hstep⟩ | ⟨-, rfl⟩
  · exact iff_of_false hstep.mode_ne_halt (by simp [hm])
  · exact iff_of_false hstep.mode_ne_halt (by simp [hm])
  · exact Iff.rfl

/-- Running over the answers leads neither into `HALT` nor out of it (R261). -/
theorem drain_halt_iff {par : Config.Params} {l : List EnvEvent} {s t : State} (h : drain par l s = .next t) :
    t.mode = .halt ↔ s.mode = .halt :=
  drain_keeps par (fun x => x.mode = .halt ↔ s.mode = .halt) (fun _ _ hx => hx)
    (fun _ _ _ _ hx _ htake => (takeAnswer_halt_iff htake).trans hx) l s t Iff.rfl h

/-! ### The way into `HALT` -/

/-- A command that has halted the block has done nothing but end in the fatal class (R261). -/
theorem eq_endFatal_of_halt {i : Instr} {s t : State} (h : exec i s = .next t) (hm : t.mode = .halt) :
    ∃ c, FatalCode c ∧ t = endFatal c s := by
  rcases exec_cases h with (hfatal | ⟨res, rv, rfl, -, -⟩) | ⟨-, rfl⟩ | ⟨-, -, -, hdrain⟩ | ⟨-, hdrain⟩
  · exact hfatal
  · cases hm
  · cases hm
  · obtain ⟨w, hbegin⟩ := isprimeBegin_step s
    exact absurd ((drain_halt_iff hdrain).1 hm) hbegin.mode_ne_halt
  · obtain ⟨w, hbegin⟩ := keygenBegin_step s
    exact absurd ((drain_halt_iff hdrain).1 hm) hbegin.mode_ne_halt

/-- Settles O20: the halted state is the fatal end, whose fields are known. -/
theorem fatalErrorsArePrecise : Obligations.FatalErrorsArePrecise := by
  intro i s t h hm
  obtain ⟨c, -, rfl⟩ := eq_endFatal_of_halt h hm
  rw [h]
  exact haltsWith_endFatal c s

/-- A result that is the fatal end, as a completion statement. -/
theorem haltsWith_of_eq {c : ErrCode} {s : State} {r : Result} (h : r = .next (endFatal c s)) : HaltsWith c s r :=
  h ▸ haltsWith_endFatal c s

/-- `ISPRIME` refuses the candidate 0 as a zero modulus (R252). -/
theorem exec_isprime_of_zero {s : State} (h : s.op.o0 = 0) : exec .isprime s = .next (endFatal .zeroModulus s) := if_pos h

/-- `ISPRIME` refuses the candidate 1 (R254). -/
theorem exec_isprime_of_one {s : State} (h : s.op.o0 = 1) : exec .isprime s = .next (endFatal .operand s) := by
  have h0 : s.operand0 ≠ 0 := by simp [h]
  exact (if_neg h0).trans (if_pos h)

/-- Settles O18: each command with a modulus checks it first. -/
theorem zeroModulusHalts : Obligations.ZeroModulusHalts := by
  refine fun s => ⟨fun h => ⟨?_, ?_, ?_⟩, fun h => ⟨?_, ?_, ?_, ?_, ?_⟩, fun h => ?_⟩
  · exact haltsWith_of_eq (exec_mod_of_zero h)
  · exact haltsWith_of_eq (exec_quot_of_zero h)
  · exact haltsWith_of_eq (exec_modinv_of_zero h)
  · exact addCommand_of_zero .add h
  · exact addCommand_of_zero .sub h
  · exact haltsWith_of_eq (exec_modmul_of_zero h)
  · exact haltsWith_of_eq (exec_modpow_of_zero h)
  · exact haltsWith_of_eq (exec_rsaxf_of_zero h)
  · exact haltsWith_of_eq (exec_isprime_of_zero h)

/-- Settles O19: the two checks that follow the one for a zero modulus. -/
theorem refusedOperandsHalt : Obligations.RefusedOperandsHalt := fun _ =>
  ⟨fun h hle => haltsWith_of_eq (exec_rsaxf_of_le h hle), fun h => haltsWith_of_eq (exec_isprime_of_one h)⟩

/-! ### The way out of `HALT` -/

/-- In `HALT` the sequencer has nothing to run (R259). -/
theorem sequencer_of_halt {s : State} (hm : s.mode = .halt) : sequencer s = .next s :=
  sequencer_of_not_accepted s (by simp [hm])

/-- An answer does not lead out of `HALT`, whether it is taken or not. -/
theorem step_answer_of_halt {s t : State} {v : Word} {rest : List EnvEvent} (hm : s.mode = .halt)
    (henv : s.env = .answer v :: rest) (h : step s = .next t) : t.mode = .halt := by
  cases hport : s.port with
  | none =>
    rw [step_answer_of_no_request henv hport] at h
    cases h
    exact hm
  | some r =>
    rw [step_answer_of_request henv hport] at h
    exact (drain_halt_iff h).2 hm

/-- A step has one next state, so what is halted by one account of it is halted. -/
theorem halt_of_step_eq {s t u : State} (h : step s = .next t) (hstep : step s = .next u) (hu : u.mode = .halt) :
    t.mode = .halt := by
  cases hstep.symm.trans h
  exact hu

/-- Settles O13: no other event changes the mode of a halted block. -/
theorem onlyResetLeavesHalt : Obligations.OnlyResetLeavesHalt := by
  intro s t hm h hleft
  cases henv : s.env with
  | nil => exact absurd (halt_of_step_eq h ((step_of_no_event henv).trans (sequencer_of_halt hm)) hm) hleft
  | cons ev rest =>
    cases ev with
    | reset => exact ⟨rest, .inl rfl⟩
    | answerReset v => exact ⟨rest, .inr ⟨v, rfl⟩⟩
    | answer v => exact absurd (step_answer_of_halt hm henv h) hleft
    | read i => exact absurd (halt_of_step_eq h (step_read henv) hm) hleft
    | write i v =>
      have hignored := hostWrite_of_not_idle i v { s with env := rest } (by simp [hm])
      exact absurd (halt_of_step_eq h (step_write henv) (by rw [hignored]; exact hm)) hleft
    | run =>
      have hrun := sequencer_of_halt (s := { s with env := rest }) hm
      exact absurd (halt_of_step_eq h ((step_run henv).trans hrun) hm) hleft

end Sys2Proof.Machine
end

section
/-!
PROOF. Reset (R280, R282, R283): it clears the block at any point, and what the first command after it finds.
-/
namespace Sys2Proof.Machine

/-- The reset input is taken in every mode (R280). -/
theorem step_reset {s : State} {rest : List EnvEvent} (h : s.env = .reset :: rest) :
    step s = .next (resetBlock { s with env := rest }) := by
  rw [step, h]

/-- A reset that follows an answer before anything further is done (R282). -/
theorem step_answerReset {s : State} {v : Word} {rest : List EnvEvent} (h : s.env = .answerReset v :: rest) :
    step s = .next (resetBlock (answerTaken v { s with env := rest })) := by
  rw [step, h]

/-- An outstanding request takes the answer (R69). -/
theorem answerTaken_of_request {s : State} {req : Request} (v : Word) (h : s.port = some req) :
    answerTaken v s = takeFromPort v s := by
  rw [answerTaken, h]

/-- An answer that no request waits for is dropped (R282). -/
theorem answerTaken_of_no_request {s : State} (v : Word) (h : s.port = none) : answerTaken v s = s := by
  rw [answerTaken, h]

/-- Settles O12: reset keeps only the model's two lists, and the one observation it may find new is the answer taken. -/
theorem resetClearsTheBlock : Obligations.ResetClearsTheBlock := by
  refine ⟨fun s rest henv => step_reset henv, fun s v rest henv => ?_⟩
  rw [step_answerReset henv]
  refine ⟨fun req hport => ?_, fun hport => ?_⟩
  · rw [answerTaken_of_request (s := { s with env := rest }) v hport]
    rfl
  · rw [answerTaken_of_no_request (s := { s with env := rest }) v hport]
    rfl

/-- The first command after reset runs on the reset values of the operands. -/
theorem step_accept_reset (i : Instr) :
    step (accept (encode i) State.reset) = exec i (accept (encode i) State.reset) :=
  step_of_accepted rfl (decode_encode i) rfl

/-- `EGCD` with a second operand 0 returns its first operand and the coefficients `(1, 0)` (R170). -/
theorem exec_egcd_of_zero {s : State} (h : s.op.o1 = 0) :
    exec .egcd s = .next (endSuccess { s.res with r0 := s.op.o0, r1 := 1, r2 := 0 } 0b00111 s) := by
  rw [exec_egcd, extendedEuclid, h, egcdRec_zero]

/-- Settles O14: after reset `MOD` finds the modulus 0 and `EGCD` two operands 0. -/
theorem firstCommandAfterReset : Obligations.FirstCommandAfterReset := by
  constructor
  · rw [step_accept_reset, exec_mod_of_zero rfl]
    exact haltsWith_endFatal _ _
  · rw [step_accept_reset, exec_egcd_of_zero rfl]
    exact endsWith_endSuccess _ _ _

end Sys2Proof.Machine
end
